-- ==== Sys2Proof/Word.lean ====
section
/-! DEFINITION. The machine's words (00_scope.md R7, R8): every seed, key word, state word and result is one
unsigned 32-bit word; a command word has 34 bits; the position register has 10. Arithmetic on them is BitVec's, which
is R9's: modulo 2^32, logical shifts, nothing signed. -/

namespace Sys2Proof

/-- A 32-bit word, bit 31 the most significant (R7 `W`, R8). -/
abbrev Word := BitVec 32

/-- A command word (R7 `CMD_W`, R71). -/
abbrev CmdWord := BitVec 34

/-- A value of the position register `IDX` (R7 `IDX_W`, R22). -/
abbrev Position := BitVec 10

end Sys2Proof
end

