-- ==== Sys2Proof/Syntax.lean ====
section
/-! DEFINITION. The command set (30_encoding.md R72): one constructor per row of spec/opcode_table.json. -/

namespace Sys2Proof

/-- A command. Operands are whole unsigned words (R73); the key words of `SEEDA` are not in the command. -/
inductive Instr where
  /-- `SEEDS s`: seed-with-scalar (40_state_initializer.md R100). -/
  | seeds (seed : Word)
  /-- `SEEDA L`: seed-with-array, `L` key words (40_state_initializer.md R110). -/
  | seeda (len : Word)
  /-- `NEXT`: draw one word (41_generator_core.md R130). -/
  | next
  deriving DecidableEq, Repr

end Sys2Proof
end

