-- ==== Sys2Proof/Source.lean ====
section
/-! DEFINITION. The lines of the assembler syntax (30_encoding.md R81, R82) as data: commands, directives and
pseudo-commands. Numbers are the unsigned numbers a line writes, of any size: whether each fits its field is
WellFormed.lean's check. What a line means to the engine is Machine/Assembler.lean's. -/

namespace Sys2Proof

/-- One line of a program (R81, R82). -/
inductive Line where
  /-- `SEEDS s`. -/
  | seeds (seed : Nat)
  /-- `SEEDA {w0, ..., w(L-1)}`: the key words, then the command with their number. -/
  | seedaKey (words : List Nat)
  /-- `SEEDA.L n`: `L` = n, key memory as it stands (log entry 11). -/
  | seedaLen (len : Nat)
  /-- `NEXT`. -/
  | next
  /-- `.key w0, w1, ...`: a directive; the host sets key memory index `j` to `wj`. -/
  | key (words : List Nat)
  /-- `.word x`: the raw 34-bit command word `x`. -/
  | word (raw : Nat)
  /-- `NEXTN n`: n consecutive `NEXT` lines (R82). -/
  | nextn (count : Nat)
  /-- `CREATE {e0, e1, e2, e3}`: `SEEDA {e0, e1, e2, e3}` as the first command after reset (R82). -/
  | create (e0 e1 e2 e3 : Nat)
  deriving DecidableEq, Repr

end Sys2Proof
end

