-- ==== Sys2Proof/WellFormed.lean ====
section
/-! DEFINITION. Well-formedness. A command (`Instr`) carries its operand as a 32-bit word and every such word is
legal (30_encoding.md R73: every seed is legal, every length decodes), so no ill-formed command exists and the check
of a command refuses nothing. What can be ill-formed is a LINE of a program (R81: "each must fit its field") and the
place of a `CREATE` (R82: "presented as the first command after reset"). -/

namespace Sys2Proof

/-- Every command is well formed: its operand's range is its type's (R73). -/
def Instr.wellFormed : Instr → Bool
  | .seeds _ => true
  | .seeda _ => true
  | .next => true

/-- A number that fits a 32-bit field. -/
def fitsWord (n : Nat) : Bool := decide (n < 2 ^ 32)

/-- A list of key words, each fitting a word, as many as a 32-bit length can count. -/
def fitsKey (words : List Nat) : Bool := words.all fitsWord && fitsWord words.length

/-- Each number of the line fits its field (R81). -/
def Line.wellFormed : Line → Bool
  | .seeds seed => fitsWord seed
  | .seedaKey words => fitsKey words
  | .seedaLen len => fitsWord len
  | .next => true
  | .key words => fitsKey words
  | .word raw => decide (raw < 2 ^ 34)
  | .nextn _ => true
  | .create e0 e1 e2 e3 => fitsKey [e0, e1, e2, e3]

/-- The line presents a command word (every line but the directive `.key` and `NEXTN 0`). -/
def Line.presentsCommand : Line → Bool
  | .key _ => false
  | .nextn count => decide (count ≠ 0)
  | .seeds _ | .seedaKey _ | .seedaLen _ | .next | .word _ | .create _ _ _ _ => true

/-- A program, run from the reset state (R81): its lines are well formed and a `CREATE` presents the first command
(R82). -/
def programWellFormed : (commandSeen : Bool) → List Line → Bool
  | _, [] => true
  | seen, line :: rest =>
    line.wellFormed
      && (match line with
          | .create _ _ _ _ => !seen
          | _ => true)
      && programWellFormed (seen || line.presentsCommand) rest

end Sys2Proof
end

