-- ==== Sys2Proof/Decode.lean ====
section
/-! DEFINITION. Decoding (30_encoding.md R71 to R76), total on command words and rejecting each reserved pattern by
name; the encoder, from the same tables; and how spec/opcode_table.json numbers a command word's bits. -/

namespace Sys2Proof

/-- The two reserved patterns of R74. -/
inductive Reserved where
  /-- `op` = 00, any `arg`. -/
  | opZero (arg : Word)
  /-- `op` = 11 with `arg` other than 0. -/
  | nextArg (arg : Word)
  deriving DecidableEq, Repr

/-- What a command word decodes to (R76): a command, or illegal, with the reserved pattern it shows. -/
inductive Decoded where
  | command (i : Instr)
  | illegal (why : Reserved)
  deriving DecidableEq, Repr

/-- `op` = bits 33:32 (R71). -/
def opField (cw : CmdWord) : BitVec 2 := cw.extractLsb' 32 2

/-- `arg` = bits 31:0 (R71), used whole and unsigned (R73). -/
def argField (cw : CmdWord) : Word := cw.extractLsb' 0 32

/-- Put the two fields together (R71). -/
def joinFields (op : BitVec 2) (arg : Word) : CmdWord := op ++ arg

/-- R76. -/
def decode (cw : CmdWord) : Decoded :=
  if opField cw = 0b01#2 then .command (.seeds (argField cw))
  else if opField cw = 0b10#2 then .command (.seeda (argField cw))
  else if opField cw = 0b11#2 then
    if argField cw = 0#32 then .command .next else .illegal (.nextArg (argField cw))
  else .illegal (.opZero (argField cw))

/-- The command word of a command (R72, R81). -/
def encode : Instr → CmdWord
  | .seeds seed => joinFields 0b01#2 seed
  | .seeda len => joinFields 0b10#2 len
  | .next => joinFields 0b11#2 0#32

/-- The command word whose bits, numbered as the opcode table numbers them, are `w`; none for a number that needs more
than the 34 lines of `cmd_word`. -/
def cmdWordOfNat (w : Nat) : Option CmdWord :=
  if w < 2 ^ 34 then some (BitVec.ofNat 34 w) else none

/-- The command the decoder reads from the word with the table's bits `w`. There is one command length (R71), so the
number of bits the table gives a row, rounded up to bytes, changes nothing. -/
def decodeTableWord (_nbits w : Nat) : Option Instr :=
  match cmdWordOfNat w with
  | none => none
  | some cw =>
    match decode cw with
    | .command i => some i
    | .illegal _ => none

end Sys2Proof
end

