-- ==== Sys2Proof/Config.lean ====
section
/-! DEFINITION. The constants of 00_scope.md R7, under their names there. `N` = 624 and `M` = 397, which shape the
index arithmetic, stand as numerals where the spec's own pseudocode writes numerals. No constant is left open: the
OPEN parameters of 92_eei_decisions.md (`RST_STYLE`, the latencies) are used by no rule and by no definition here. -/

namespace Sys2Proof.Config

/-- `UPPER_MASK`: the upper bit of a word. -/
def upperMask : Word := 0x80000000
/-- `LOWER_MASK`: the lower 31 bits of a word. -/
def lowerMask : Word := 0x7FFFFFFF
/-- `MATRIX_A`. The spec takes the value from general knowledge (92_eei_decisions.md D16). -/
def matrixA : Word := 0x9908B0DF
/-- `INIT_MULT`: multiplier of the scalar seeding recurrence. -/
def initMult : Word := 1812433253
/-- `INIT_SHIFT`: the right shift of all three seeding recurrences. -/
def initShift : Nat := 30
/-- `ARRAY_BASE_SEED`: the scalar seed that `SEEDA` starts from. -/
def arrayBaseSeed : Word := 19650218
/-- `KEY_MULT_1`: multiplier of the first array pass. -/
def keyMult1 : Word := 1664525
/-- `KEY_MULT_2`: multiplier of the second array pass. -/
def keyMult2 : Word := 1566083941
/-- `FORCED_WORD0`: the value `SEEDA` forces into `MT[0]`. -/
def forcedWord0 : Word := 0x80000000
/-- `TEMPER_U`: first tempering right shift. -/
def temperU : Nat := 11
/-- `TEMPER_S`: second tempering left shift. -/
def temperS : Nat := 7
/-- `TEMPER_B`: the mask of the second tempering step. -/
def temperB : Word := 0x9D2C5680
/-- `TEMPER_T`: third tempering left shift. -/
def temperT : Nat := 15
/-- `TEMPER_C`: the mask of the third tempering step. -/
def temperC : Word := 0xEFC60000
/-- `TEMPER_L`: fourth tempering right shift. -/
def temperL : Nat := 18

end Sys2Proof.Config
end

