-- ==== Sys2Proof/Machine/State.lean ====
section
/-! DEFINITION. The state (10_state.md): the architectural tuple, the hidden state of a command that is still
executing, the levels at the ports, and the host's side of the ports (its key memory, its actions to come, the record of
what it was given). Plain data throughout. -/

namespace Sys2Proof.Machine

/-- The register file `MT[0..623]` (R20). -/
abbrev RegFile := Vector Word 624

/-- The host's key memory (20_memory.md R50, R51): a list of (key index, key word), indices strictly rising. A key
index that is not listed is one whose read the host never answers (R78, R179). The key space is word-addressed and has
no bytes (R53), so a cell holds a word. -/
abbrev KeyMem := List (Nat × Word)

/-- The field `CAUSE` (R28): which fault set `FAULT`. -/
inductive Cause where
  /-- 0: no fault. -/
  | none
  /-- 1: a reserved command word was accepted (60_exceptions.md R171). -/
  | illegalCommand
  /-- 2: `NEXT` with `INIT` = 0 (R172). -/
  | notInitialised
  /-- 3: `SEEDA` with `L` = 0 (R173). -/
  | zeroLengthKey
  deriving DecidableEq, Repr

/-- A `SEEDA` that is still executing (hidden state, R31): the latched operand `L` and the words its key reads have
returned so far, oldest first. The counters of R31 follow from their number `n`: `j` = n mod `L`, `i` = 1 + n mod 623,
and max(624, `L`) - n iterations of pass 1 remain. -/
structure SeedaRun where
  len : Word
  words : List Word
  deriving DecidableEq, Repr

/-- What the host does at one sampling edge (30_encoding.md R70, R75, R78; 70_reset_and_hazards.md R200). -/
inductive HostAction where
  /-- Nothing is presented: an edge passes (10_state.md R34). -/
  | idle
  /-- `cmd_valid` = 1 with this `cmd_word`, at this edge (R75). -/
  | present (cw : CmdWord)
  /-- The host writes a word of its own key memory (R59, R81 `.key`). -/
  | setKey (j : Word) (w : Word)
  /-- The host drives the level of `rst` (R200). -/
  | setRst (level : Bool)
  /-- Two masters drive the command port at one edge (20_memory.md R60; 93_implementation_defined.md U1). -/
  | contend (cw1 cw2 : CmdWord)
  /-- Power or the clock is removed (60_exceptions.md R186; U15). -/
  | losePower
  deriving DecidableEq, Repr

/-- The machine's state. -/
structure State where
  /-- `MT[0..623]` (R20). -/
  mt : RegFile
  /-- `IDX` (R22). -/
  idx : Position
  /-- `INIT` (R26). -/
  init : Bool
  /-- `FAULT` (R27). -/
  fault : Bool
  /-- `CAUSE` (R28). -/
  cause : Cause
  /-- `RES` (R30). -/
  res : Word
  /-- The command still executing, if one is (R31): a `SEEDA` waiting for a key word (R78). -/
  busy : Option SeedaRun
  /-- The level of the input `rst` (R70, R200). -/
  rst : Bool
  /-- The output `res_valid` at the edge just past (R77). -/
  resValid : Bool
  /-- The host's key memory (R51). -/
  keyMem : KeyMem
  /-- The host's actions to come, next first: the model's own field for the machine's input (log entry 1). -/
  host : List HostAction
  /-- The words emitted so far, oldest first: the model's own record of the result port (R77; log entry 3). -/
  emitted : List Word
  /-- The key indices read so far, oldest first: the model's own record of the key read port (R52; log entry 3). -/
  keyReads : List Word
  deriving DecidableEq, Repr

/-- What stops the machine outside every rule of the spec. The engine's own three faults (R170) are NOT here: they are
entered, as R174 says, in a next state. -/
inductive Fault where
  /-- Raised by the step when two masters present command words at one edge at which a word would be accepted: "a data
  race ... undefined/unsafe" (R60, U1). Safe: the model stops where the hardware goes on. -/
  | commandPortRace
  deriving DecidableEq, Repr

/-- What the model refuses to give a meaning. -/
inductive Refusal where
  /-- Raised by an arm of `exec` for a command without a meaning yet; no arm does. Safe. -/
  | notModelled (mnemonic : String)
  /-- Raised by the step when power or the clock is removed: "What happens to the state if power or the clock is
  removed is not specified" (R186, U15). Safe: the model stops. -/
  | powerOrClockLost
  deriving DecidableEq, Repr

/-- The outcome of a command or a step. -/
abbrev Result := Host.Outcome State Fault Refusal

/-- The machine right after reset (R33, R200): every register zero, no command in progress, `rst` back at 0. The host's
side is empty: no key word written, no action to come, nothing recorded (log entries 1, 2, 3). -/
def State.reset : State where
  mt := Vector.replicate 624 0
  idx := 0
  init := false
  fault := false
  cause := .none
  res := 0
  busy := none
  rst := false
  resValid := false
  keyMem := []
  host := []
  emitted := []
  keyReads := []

end Sys2Proof.Machine
end

