-- ==== Sys2Proof/Machine/Ops.lean ====
section
/-! DEFINITION. The named operations over the state: the register file, the key memory, fault entry, result delivery,
reset, and the outputs that are functions of the state. Every command writes the state through these. -/

namespace Sys2Proof.Machine

/-! The register file (00_scope.md R10). No rule forms an index above 623. -/

/-- `MT[i]`. -/
def RegFile.get (m : RegFile) (i : Nat) : Word := Vector.getD m i 0

/-- `MT[i] <- v`. -/
def RegFile.set (m : RegFile) (i : Nat) (v : Word) : RegFile := Vector.setIfInBounds m i v

/-- `for i = first .. first + count - 1: body` (R10): in that order, each run seeing the writes of the runs before. -/
def forUp {σ : Type} (body : Nat → σ → σ) : (count first : Nat) → σ → σ
  | 0, _, s => s
  | count + 1, first, s => forUp body count (first + 1) (body first s)

/-! Key memory (20_memory.md R50, R51). -/

/-- The word at key index `j`; none where the host answers no read of `j`. -/
def KeyMem.read : KeyMem → Nat → Option Word
  | [], _ => none
  | (a, w) :: rest, j => if a = j then some w else KeyMem.read rest j

/-- The host sets key index `j` to `w`, keeping the indices strictly rising. -/
def KeyMem.write : KeyMem → Nat → Word → KeyMem
  | [], j, w => [(j, w)]
  | (a, v) :: rest, j, w =>
    if j < a then (j, w) :: (a, v) :: rest
    else if j = a then (j, w) :: rest
    else (a, v) :: KeyMem.write rest j w

/-- The canonical form: indices strictly rising, each a 32-bit index (R50 `KEY_AW`). -/
abbrev KeyMem.wf (m : KeyMem) : Prop :=
  m.Pairwise (fun p q => p.1 < q.1) ∧ ∀ p ∈ m, p.1 < 2 ^ 32

/-! Updates of the engine's registers. -/

/-- Fault entry (60_exceptions.md R174): `FAULT <- 1`, `CAUSE <- code`, nothing else. -/
def State.raise (s : State) (c : Cause) : State := { s with fault := true, cause := c }

/-- The end of a seeding command (40_state_initializer.md R100, R110, R116): the register file as filled, `IDX <- 624`,
`INIT <- 1`. -/
def State.seeded (s : State) (m : RegFile) : State := { s with mt := m, idx := 624, init := true }

/-- The end of a twist (41_generator_core.md R131): the register file regenerated, `IDX <- 0`. -/
def State.regenerated (s : State) (m : RegFile) : State := { s with mt := m, idx := 0 }

/-- `IDX <- IDX + 1` (R133). -/
def State.advance (s : State) : State := { s with idx := s.idx + 1 }

/-- `RES <- v ; emit(v)` (R136, 30_encoding.md R77): the word is written and presented once on the result port. -/
def State.deliver (s : State) (v : Word) : State :=
  { s with res := v, resValid := true, emitted := s.emitted ++ [v] }

/-- The command still executing, if any (10_state.md R31). -/
def State.setBusy (s : State) (run : Option SeedaRun) : State := { s with busy := run }

/-- Key reads answered at the key read port (30_encoding.md R78). -/
def State.logReads (s : State) (indices : List Word) : State :=
  { s with keyReads := s.keyReads ++ indices }

/-- Reset (70_reset_and_hazards.md R200, R201): every piece of the engine's state takes its reset value and a command in
progress is abandoned. Key memory, the host's actions and the records are the host's and stay. -/
def State.enterReset (s : State) : State :=
  { s with
    mt := State.reset.mt, idx := State.reset.idx, init := State.reset.init, fault := State.reset.fault,
    cause := State.reset.cause, res := State.reset.res, busy := State.reset.busy,
    resValid := State.reset.resValid }

/-! Updates of the host's side. -/

/-- A new sampling edge: the host's next action is taken from the list and the pulse on `res_valid`, which lasts one edge
(30_encoding.md R77), is over. -/
def State.beginEdge (s : State) (rest : List HostAction) : State :=
  { s with host := rest, resValid := false }

/-- The host writes its key memory (20_memory.md R59). -/
def State.writeKey (s : State) (j : Word) (w : Word) : State :=
  { s with keyMem := KeyMem.write s.keyMem j.toNat w }

/-- The host drives `rst`. -/
def State.driveRst (s : State) (level : Bool) : State := { s with rst := level }

/-- A host that presents the command word `cw` at the next edge. -/
def State.presentNext (s : State) (cw : CmdWord) : State := { s with host := .present cw :: s.host }

/-! Outputs (30_encoding.md R70). `res_data` is the field `res`, `res_valid` the field `resValid`. -/

/-- `cmd_ready` (R75): not in reset, no accepted command still executing, `FAULT` = 0. -/
def State.cmdReady (s : State) : Bool := !s.rst && s.busy.isNone && !s.fault

end Sys2Proof.Machine
end

