-- ==== Sys2Proof/Machine/Flags.lean ====
section
/-! DEFINITION. The status register (10_state.md R26 to R29; 30_encoding.md R79). There are no condition codes, so no
other flag computation exists (R29). -/

namespace Sys2Proof.Machine

/-- The code that `CAUSE` holds for each fault (60_exceptions.md R170). -/
def Cause.code : Cause → BitVec 2
  | .none => 0
  | .illegalCommand => 1
  | .notInitialised => 2
  | .zeroLengthKey => 3

/-- One bit from a flag. -/
def flagBit (b : Bool) : BitVec 1 := if b then 1 else 0

/-- `STATUS` (R29): bits 3:2 `CAUSE`, bit 1 `FAULT`, bit 0 `INIT`, driven continuously on `status` (R79). -/
def State.status (s : State) : BitVec 4 := s.cause.code ++ flagBit s.fault ++ flagBit s.init

/-- The source's state Exhausted: `IDX >= 624`, a twist is due (R24). -/
def State.exhausted (s : State) : Bool := decide (624 ≤ s.idx.toNat)

end Sys2Proof.Machine
end

