-- ==== Sys2Proof/Machine/Generator.lean ====
section
/-! DEFINITION. The Generator Core (41_generator_core.md): the twist, the tempering transform and the command NEXT. -/

namespace Sys2Proof.Machine

/-- The word XORed in when `y` is odd (R131 (c)). -/
def mag (y : Word) : Word := if y.getLsbD 0 then Config.matrixA else 0

/-- `y`: the upper bit of the first word and the lower 31 bits of the second (R131 (a)). -/
def twistY (a b : Word) : Word := (a &&& Config.upperMask) ||| (b &&& Config.lowerMask)

/-- `c ^ (y >> 1) ^ (MATRIX_A if y is odd)` (R131). -/
def twistWord (a b c : Word) : Word := c ^^^ (twistY a b >>> 1) ^^^ mag (twistY a b)

/-- Position `k` of the twist (R131): each read sees every write made for a smaller `k`. -/
def twistStep (k : Nat) (m : RegFile) : RegFile :=
  RegFile.set m k
    (twistWord (RegFile.get m k) (RegFile.get m ((k + 1) % 624)) (RegFile.get m ((k + 397) % 624)))

/-- `twist()` on the register file: k = 0 .. 623, in place, ascending (R131 (b)). -/
@[irreducible] def twist (m : RegFile) : RegFile := forUp twistStep 624 0 m

/-- Position `k` of a range of the three-range form (R132), with the positions of its operands. -/
def rangeStep (next far : Nat → Nat) (k : Nat) (m : RegFile) : RegFile :=
  RegFile.set m k (twistWord (RegFile.get m k) (RegFile.get m (next k)) (RegFile.get m (far k)))

/-- The three-range form (R132): k = 0 .. 226, k = 227 .. 622, k = 623. -/
@[irreducible] def twistThreeRanges (m : RegFile) : RegFile :=
  let m1 := forUp (rangeStep (· + 1) (· + 397)) 227 0 m
  let m2 := forUp (rangeStep (· + 1) (· - 227)) 396 227 m1
  rangeStep (fun _ => 0) (fun _ => 396) 623 m2

/-- `temper(y)` (R135): each line uses the `y` left by the line before. -/
def temper (y : Word) : Word :=
  let y1 := y ^^^ (y >>> Config.temperU)
  let y2 := y1 ^^^ ((y1 <<< Config.temperS) &&& Config.temperB)
  let y3 := y2 ^^^ ((y2 <<< Config.temperT) &&& Config.temperC)
  y3 ^^^ (y3 >>> Config.temperL)

/-- `if IDX >= 624: twist()` (R130). -/
def State.twistIfDue (s : State) : State := if s.exhausted then s.regenerated (twist s.mt) else s

/-- `y <- MT[IDX] ; IDX <- IDX + 1 ; RES <- temper(y) ; emit` (R133, R135, R136). -/
def State.draw (s : State) : State := s.advance.deliver (temper (RegFile.get s.mt s.idx.toNat))

/-- `NEXT` (R130): the fault check first (60_exceptions.md R172), then the twist if it is due, then the draw. -/
def execNext (s : State) : Result :=
  if s.init = false then .next (s.raise .notInitialised) else .next s.twistIfDue.draw

end Sys2Proof.Machine
end

