-- ==== Sys2Proof/Machine/Operands.lean ====
section
/-! DEFINITION. Operand forms: the words the commands compute with besides the command word's own `arg`: the mixed
previous word of the seeding recurrences, the key words that the key read port returns, and the consumer's signed
reading of a result. -/

namespace Sys2Proof.Machine

/-- `zext_32(n)` of a loop counter (00_scope.md R10; 40_state_initializer.md R100, R113, R114). -/
def zext32 (n : Nat) : Word := BitVec.ofNat 32 n

/-- `x ^ (x >> 30)`: the mixing common to the three seeding recurrences (R100, R113, R114). -/
def mixShift (x : Word) : Word := x ^^^ (x >>> Config.initShift)

/-- `MT[i] ^ ((MT[i-1] ^ (MT[i-1] >> 30)) * mult)`: the operand common to the two array passes (R113, R114). -/
def mixedWord (mult : Word) (m : RegFile) (i : Nat) : Word :=
  RegFile.get m i ^^^ (mixShift (RegFile.get m (i - 1)) * mult)

/-- The key reads of a `SEEDA` (20_memory.md R52): at most `count` of them, from read number `n` on, read `n` of key
index `n mod L`; the words returned, up to the first read the host does not answer (30_encoding.md R78). -/
def readKeys (keys : KeyMem) (len : Nat) : (count n : Nat) → List Word
  | 0, _ => []
  | count + 1, n =>
    match KeyMem.read keys (n % len) with
    | some w => w :: readKeys keys len count (n + 1)
    | none => []

/-- The key indices of reads number `n`, ..., `n + count - 1` (R52). -/
def readIndices (len : Nat) : (count n : Nat) → List Word
  | 0, _ => []
  | count + 1, n => zext32 (n % len) :: readIndices len count (n + 1)

/-- How many key reads the `SEEDA` makes: max(624, `L`) (R52, R113). -/
def SeedaRun.total (run : SeedaRun) : Nat := max 624 run.len.toNat

/-- The key index of its next read (R52). -/
def SeedaRun.nextIndex (run : SeedaRun) : Nat := run.words.length % run.len.toNat

/-- `key_req` (30_encoding.md R78): a `SEEDA` is waiting for a key word. -/
def State.keyReq (s : State) : Bool := s.busy.isSome

/-- `key_idx` (R78): the key index of the request; only meaningful with `key_req` = 1. -/
def State.keyIdx (s : State) : Option Word := s.busy.map fun run => zext32 run.nextIndex

/-- `sint32(v)`: the two's-complement reading of a result (00_scope.md R10; 41_generator_core.md R137). -/
def sint32 (v : Word) : Int := if v.toNat < 2 ^ 31 then (v.toNat : Int) else (v.toNat : Int) - 2 ^ 32

end Sys2Proof.Machine
end

