-- ==== Sys2Proof/Machine/Initializer.lean ====
section
/-! DEFINITION. The State Initializer (40_state_initializer.md): the commands SEEDS and SEEDA. -/

namespace Sys2Proof.Machine

/-! SEEDS (R100). -/

/-- `MT[i] <- 1812433253 * (MT[i-1] ^ (MT[i-1] >> 30)) + i`. -/
def seedStep (i : Nat) (m : RegFile) : RegFile :=
  RegFile.set m i (Config.initMult * mixShift (RegFile.get m (i - 1)) + zext32 i)

/-- `MT[0] <- s`, then the recurrence for i = 1 .. 623. (Irreducible, so that no proof unrolls the loop by accident.) -/
@[irreducible] def seedFill (seed : Word) (m : RegFile) : RegFile := forUp seedStep 623 1 (RegFile.set m 0 seed)

/-- `SEEDS s` (R100, R101). -/
def execSeeds (seed : Word) (s : State) : Result := .next (s.seeded (seedFill seed s.mt))

/-! SEEDA (R110 to R117). -/

/-- The walk of the two passes: the register file and the position `i`, which pass 2 takes over from pass 1 (R114). -/
structure Walk where
  mt : RegFile
  i : Nat
  deriving DecidableEq, Repr

/-- `MT[i] <- v ; i <- i + 1 ; if i >= 624: MT[0] <- MT[623] ; i <- 1` (R113, R114). -/
def walkWrite (w : Walk) (v : Word) : Walk :=
  let m := RegFile.set w.mt w.i v
  if w.i + 1 ≥ 624 then ⟨RegFile.set m 0 (RegFile.get m 623), 1⟩ else ⟨m, w.i + 1⟩

/-- One iteration of pass 1, with the key word of its read and its key index (R113). -/
def pass1Step (key : Word) (j : Nat) (w : Walk) : Walk :=
  walkWrite w (mixedWord Config.keyMult1 w.mt w.i + key + zext32 j)

/-- Pass 1 (R113): one iteration per key word returned; `j <- j + 1 ; if j >= L: j <- 0`. -/
def pass1 (len : Nat) : (keys : List Word) → (j : Nat) → Walk → Walk
  | [], _, w => w
  | key :: keys, j, w => pass1 len keys (if j + 1 ≥ len then 0 else j + 1) (pass1Step key j w)

/-- One iteration of pass 2 (R114): the position is subtracted. -/
def pass2Step (w : Walk) : Walk := walkWrite w (mixedWord Config.keyMult2 w.mt w.i - zext32 w.i)

/-- Pass 2 (R114): `repeat n times`, n = 623. -/
def pass2 : (n : Nat) → Walk → Walk
  | 0, w => w
  | n + 1, w => pass2 n (pass2Step w)

/-- Steps 1 to 4 (R112 to R115) on the words that the key reads returned, in order. -/
@[irreducible] def arrayFill (len : Nat) (keys : List Word) (m : RegFile) : RegFile :=
  let w1 := pass1 len keys 0 ⟨seedFill Config.arrayBaseSeed m, 1⟩
  let w2 := pass2 623 w1
  RegFile.set w2.mt 0 Config.forcedWord0

/-- The `SEEDA` makes the key reads the host answers. With all max(624, `L`) words in hand it completes, in one
transition of the architectural state (20_memory.md R58); else it waits for the first word not answered, with that
state as it was (30_encoding.md R78; log entry 4). -/
def State.runSeeda (s : State) (run : SeedaRun) : State :=
  let done := run.words.length
  let got := readKeys s.keyMem run.len.toNat (run.total - done) done
  let words := run.words ++ got
  let s1 := s.logReads (readIndices run.len.toNat got.length done)
  if words.length < run.total then s1.setBusy (some ⟨run.len, words⟩)
  else (s1.setBusy none).seeded (arrayFill run.len.toNat words s.mt)

/-- `SEEDA L` (R110): the length check first (R111), then the four steps. -/
def execSeeda (len : Word) (s : State) : Result :=
  if len = 0 then .next (s.raise .zeroLengthKey) else .next (s.runSeeda ⟨len, []⟩)

end Sys2Proof.Machine
end

