-- ==== Sys2Proof/Machine/Dispatch.lean ====
section
/-! DEFINITION. The meaning of each command, one arm per row of spec/opcode_table.json. -/

namespace Sys2Proof.Machine

def exec (i : Instr) (s : State) : Host.Outcome State Fault Refusal :=
  match i with
  | .seeds seed => Sys2Proof.Machine.execSeeds seed s
  | .seeda len => Sys2Proof.Machine.execSeeda len s
  | .next => Sys2Proof.Machine.execNext s

end Sys2Proof.Machine
end

