-- ==== Sys2Proof/Machine/Accept.lean ====
section
/-! DEFINITION. The transport (30_encoding.md R75, R78; 70_reset_and_hazards.md R200): what the engine does at one
sampling edge, given what the host does there. -/

namespace Sys2Proof.Machine

/-- An accepted command word is decoded and executed; a reserved one raises `IllegalCommand` (60_exceptions.md R171,
R176). -/
def accept (cw : CmdWord) (s : State) : Result :=
  match decode cw with
  | .command i => exec i s
  | .illegal _ => .next (s.raise .illegalCommand)

/-- An edge at which no command word is accepted: in reset the engine takes its reset values (R200); a waiting `SEEDA`
makes the reads the host now answers (R78); else the state holds (10_state.md R34). -/
def State.hold (s : State) : State :=
  if s.rst then s.enterReset
  else match s.busy with
    | some run => s.runSeeda run
    | none => s

/-- The host drives `rst` (R200): while it is 1 the engine is in reset; when it returns to 0 the engine is idle and
uninitialised. -/
def State.applyRst (s : State) (level : Bool) : State :=
  ((if s.rst then s.enterReset else s).driveRst level).hold

/-- What happens at one edge (R75, R78, R200): a command word is accepted only when `cmd_ready` = 1; presented
otherwise it has no effect. -/
def edge (a : HostAction) (s : State) : Result :=
  match a with
  | .idle => .next s.hold
  | .present cw => if s.cmdReady then accept cw s else .next s.hold
  | .setKey j w => .next (s.writeKey j w).hold
  | .setRst level => .next (s.applyRst level)
  | .contend _ _ => if s.cmdReady then .fault .commandPortRace else .next s.hold
  | .losePower => .refused .powerOrClockLost

/-- The edge with the host's next action; with none left, an idle edge. -/
def nextEdge (s : State) : Result :=
  match s.host with
  | [] => edge .idle (s.beginEdge [])
  | a :: rest => edge a (s.beginEdge rest)

/-- The command word with the opcode table's bits `w` presented at the next edge; a number that is no command word
cannot stand on the 34 lines of `cmd_word`, and nothing is presented. -/
def State.presentTableWord (s : State) (w : Nat) : State :=
  match cmdWordOfNat w with
  | some cw => s.presentNext cw
  | none => s

end Sys2Proof.Machine
end

