-- ==== Sys2Proof/Machine/Step.lean ====
section
/-! DEFINITION. One step: one sampling edge, with the host's next action (Machine/Accept.lean). -/

namespace Sys2Proof.Machine

/-- One step of the machine. -/
def step (s : State) : Host.Outcome State Fault Refusal := nextEdge s

/-- The state with the command word of the table's bits `w` presented where the step takes its next command: the
command port (log entry 6). The engine fetches nothing (10_state.md R25); a faulted, resetting or busy engine accepts
nothing (30_encoding.md R75), whatever is presented. -/
def State.withFetchWord (s : State) (_nbits w : Nat) : State := s.presentTableWord w

end Sys2Proof.Machine
end

