-- ==== Sys2Proof/Machine/Assembler.lean ====
section
/-! DEFINITION. What a program's lines make the host do (30_encoding.md R81, R82), and the host sequence of the
source's create_generator (70_reset_and_hazards.md R206). -/

namespace Sys2Proof.Machine

/-- The host sets key memory index `j`, `j + 1`, ... to the words listed. -/
def writeKeys : (j : Nat) → (words : List Nat) → List HostAction
  | _, [] => []
  | j, w :: rest => .setKey (zext32 j) (zext32 w) :: writeKeys (j + 1) rest

/-- The host presents a command. -/
def presentCommand (i : Instr) : HostAction := .present (encode i)

/-- `SEEDA {w0, ..., w(L-1)}`: first all key words, then the command (R81, R203). -/
def seedaWithKey (words : List Nat) : List HostAction :=
  writeKeys 0 words ++ [presentCommand (.seeda (zext32 words.length))]

/-- One line (R81, R82). `SEEDA.L n` presents the command alone and so takes key memory as it stands, the words of a
`SEEDA {...}` or `CREATE {...}` line after the latest `.key` included (DESIGN CHOICE, log entry 11: R81 says both "as the
latest `.key` directive left it" and that a `SEEDA {...}` line sets key memory). -/
def assembleLine : Line → List HostAction
  | .seeds seed => [presentCommand (.seeds (zext32 seed))]
  | .seedaKey words => seedaWithKey words
  | .seedaLen len => [presentCommand (.seeda (zext32 len))]
  | .next => [presentCommand .next]
  | .key words => writeKeys 0 words
  | .word raw => [.present (BitVec.ofNat 34 raw)]
  | .nextn count => List.replicate count (presentCommand .next)
  | .create e0 e1 e2 e3 => seedaWithKey [e0, e1, e2, e3]

/-- A program: its lines in order. -/
def assemble (program : List Line) : List HostAction := program.flatMap assembleLine

/-- create_generator (R206): reset, then the four entropy words and `SEEDA` with `L` = 4. -/
def createGenerator (e0 e1 e2 e3 : Nat) : List HostAction :=
  .setRst true :: .setRst false :: seedaWithKey [e0, e1, e2, e3]

end Sys2Proof.Machine
end

