-- ==== Sys2Proof/Safety.lean ====
section
/-! DEFINITION. What counts as a safe run, and the invariants the claims use: each is a property of one state, with the
rule that gives it. -/

namespace Sys2Proof.Machine

/-- The step performs the action `a` of the host's and leaves it `rest` to do: the next action listed, or an idle edge
when none is. -/
def State.Performs (s : State) (a : HostAction) (rest : List HostAction) : Prop :=
  s.host = a :: rest ∨ (s.host = [] ∧ a = .idle ∧ rest = [])

/-- The engine has not gone wrong (60_exceptions.md R175: "a model should treat any run that reaches `FAULT` = 1 as
having gone wrong"). -/
abbrev State.Safe (s : State) : Prop := s.fault = false

/-- 0 <= `IDX` <= 624 (10_state.md R23). -/
abbrev State.PositionInRange (s : State) : Prop := s.idx.toNat ≤ 624

/-- `CAUSE` = 0 if and only if `FAULT` = 0 (R28). -/
abbrev State.CauseTellsFault (s : State) : Prop := s.cause = .none ↔ s.fault = false

/-- The engine's registers, and its outputs, as reset leaves them (R33, 70_reset_and_hazards.md R200). -/
abbrev State.AtReset (s : State) : Prop :=
  s.mt = Vector.replicate 624 0 ∧ s.idx = 0 ∧ s.init = false ∧ s.fault = false ∧ s.cause = .none ∧ s.res = 0 ∧
    s.busy = none ∧ s.resValid = false

/-- While `rst` = 1 the engine is at its reset values (R200). -/
abbrev State.ResetHolds (s : State) : Prop := s.rst = true → s.AtReset

/-- Until the first seeding command completes, the registers the generator reads and writes are as reset left them
(R22, R30, R33, R35). -/
abbrev State.UnseededIsZero (s : State) : Prop :=
  s.init = false → s.mt = Vector.replicate 624 0 ∧ s.idx = 0 ∧ s.res = 0

/-- Some bit of the register file that the twist reads is set: the upper bit of `MT[0]`, or a bit of some `MT[i]`,
i = 1 .. 623. -/
def RegFile.Live (m : RegFile) : Prop :=
  RegFile.get m 0 &&& Config.upperMask ≠ 0 ∨ ∃ i, 1 ≤ i ∧ i < 624 ∧ RegFile.get m i ≠ 0

/-- The all-zero register file, whose draws are all zero, exists only until the first seeding command completes (R35). -/
abbrev State.SeededIsLive (s : State) : Prop := s.init = true → RegFile.Live s.mt

/-- A command still executing is a `SEEDA` with `L` >= 1 that has some read to make, on an engine that is neither in
reset nor faulted; and the host does not answer that read, or the `SEEDA` would have gone on (30_encoding.md R75, R78). -/
def State.WaitIsForKey (s : State) : Prop :=
  ∀ run, s.busy = some run →
    run.len ≠ 0 ∧ run.words.length < run.total ∧ KeyMem.read s.keyMem run.nextIndex = none ∧
      s.rst = false ∧ s.fault = false

/-- The pulse on `res_valid` marks the word last emitted, and it is in `RES` (30_encoding.md R77). -/
abbrev State.PulseShowsResult (s : State) : Prop := s.resValid = true → s.emitted.getLast? = some s.res

end Sys2Proof.Machine
end

