-- ==== Sys2Proof/Certificates/Slice0/Obligations.lean ====
section
/-! DEFINITION. The statements for the provers, from the numbered rules of spec/, and the few predicates they share.
No statement is about a test program. Where one rests on a choice of the model's, its docstring names the log entry. -/

open Sys2Proof Sys2Proof.Machine

namespace Sys2Proof.Claims

/-- Every key index below `len` is answered by the host (20_memory.md R51). -/
def KeysAnswered (s : State) (len : Word) : Prop :=
  ∀ j, j < len.toNat → (KeyMem.read s.keyMem j).isSome = true

/-- The key word the host holds at index `j` (R51), where it answers. -/
def keyWord (s : State) (j : Nat) : Word := (KeyMem.read s.keyMem j).getD 0

/-- One write of the array walk at position `p` (40_state_initializer.md R113, R114): `MT[p]` gets `v`; leaving
position 623 copies it into `MT[0]`; nothing else changes. -/
def WalkWrites (m m' : RegFile) (p : Nat) (v : Word) : Prop :=
  RegFile.get m' p = v ∧ RegFile.get m' 0 = (if p = 623 then v else RegFile.get m 0) ∧
    ∀ q, 1 ≤ q → q < 624 → q ≠ p → RegFile.get m' q = RegFile.get m q

/-- `y` with its four tempering steps (41_generator_core.md R135), each from the one before. -/
def TempersTo (y v : Word) : Prop :=
  ∃ y1 y2 y3 : Word, y1 = y ^^^ (y >>> 11) ∧ y2 = y1 ^^^ ((y1 <<< 7) &&& 0x9D2C5680) ∧
    y3 = y2 ^^^ ((y2 <<< 15) &&& 0xEFC60000) ∧ v = y3 ^^^ (y3 >>> 18)

/-- The scalar recurrence (R100): `MT[0]` is the seed and each later word comes from the one before it. -/
def FilledFrom (seed : Word) (m : RegFile) : Prop :=
  RegFile.get m 0 = seed ∧
    ∀ i, 1 ≤ i → i < 624 →
      RegFile.get m i =
        1812433253#32 * (RegFile.get m (i - 1) ^^^ (RegFile.get m (i - 1) >>> 30)) + BitVec.ofNat 32 i

/-- The step is made in reset, or enters it (70_reset_and_hazards.md R200). -/
def ResetEdge (s : State) : Prop := s.rst = true ∨ ∃ rest, s.Performs (.setRst true) rest

/-- The step accepts the command `i` (30_encoding.md R75). -/
def Accepts (s : State) (i : Instr) : Prop := s.cmdReady = true ∧ ∃ rest, s.Performs (.present (encode i)) rest

/-- A command that seeds alike in two states: `SEEDS`, or `SEEDA` with `L` >= 1 whose key words the host answers, the
same in both. -/
def SeedsAlike (i : Instr) (s s' : State) : Prop :=
  match i with
  | .seeds _ => True
  | .seeda len =>
    len ≠ 0 ∧ KeysAnswered s len ∧
      ∀ j, j < len.toNat → KeyMem.read s.keyMem j = KeyMem.read s'.keyMem j
  | .next => False

end Sys2Proof.Claims

open Sys2Proof.Claims

/-! ## Encodings -/

/-- The decoding vectors T-ENC of 95_test_vectors.md, each word written out. -/
def Obligations.WorkedWordsDecode : Prop :=
  decode 0x100000000#34 = .command (.seeds 0) ∧
  decode 0x100001105#34 = .command (.seeds 4357) ∧
  decode 0x1FFFFFFFF#34 = .command (.seeds 0xFFFFFFFF) ∧
  decode 0x200000004#34 = .command (.seeda 4) ∧
  decode 0x200000000#34 = .command (.seeda 0) ∧
  decode 0x2FFFFFFFF#34 = .command (.seeda 4294967295) ∧
  decode 0x300000000#34 = .command .next ∧
  decode 0x300000001#34 = .illegal (.nextArg 1) ∧
  decode 0x3FFFFFFFF#34 = .illegal (.nextArg 0xFFFFFFFF) ∧
  decode 0x000000000#34 = .illegal (.opZero 0) ∧
  decode 0x000001105#34 = .illegal (.opZero 0x1105) ∧
  decode 0x0FFFFFFFF#34 = .illegal (.opZero 0xFFFFFFFF)

/-- R71, R72, R73, R76: a word decodes to a command exactly when it is that command's encoding: every operand survives
the round trip, and no word has two meanings. -/
def Obligations.DecodeEncodeAgree : Prop :=
  ∀ (cw : CmdWord) (i : Instr), decode cw = .command i ↔ (i.wellFormed = true ∧ encode i = cw)

/-- R72, R74: the five classes of command words, by the number of the word. -/
def Obligations.CommandWordClasses : Prop :=
  ∀ cw : CmdWord,
    (∀ seed, decode cw = .command (.seeds seed) ↔ cw.toNat = 0x100000000 + seed.toNat) ∧
    (∀ len, decode cw = .command (.seeda len) ↔ cw.toNat = 0x200000000 + len.toNat) ∧
    (decode cw = .command .next ↔ cw.toNat = 0x300000000) ∧
    (∀ arg, decode cw = .illegal (.opZero arg) ↔ cw.toNat = arg.toNat) ∧
    (∀ arg, decode cw = .illegal (.nextArg arg) ↔ (arg ≠ 0 ∧ cw.toNat = 0x300000000 + arg.toNat))

/-- R74: of the 2^34 command words, 2^33 + 1 are commands. -/
def Obligations.CommandWordsCounted : Prop :=
  Set.ncard {cw : CmdWord | ∃ i, decode cw = .command i} = 2 ^ 33 + 1

/-- R83: the worked encodings, as the lines of R81 write them, and the two that execute and fault or are reserved. -/
def Obligations.WorkedLinesEncode : Prop :=
  assembleLine (.seeds 4357) = [.present 0x100001105#34] ∧
  opField 0x100001105#34 = 0b01#2 ∧ argField 0x100001105#34 = 0x00001105#32 ∧
  assembleLine (.seeds 0xFFFFFFFF) = [.present 0x1FFFFFFFF#34] ∧
  assembleLine (.seedaKey [0x123, 0x234, 0x345, 0x456]) =
    [.setKey 0 0x123, .setKey 1 0x234, .setKey 2 0x345, .setKey 3 0x456, .present 0x200000004#34] ∧
  assembleLine (.seedaKey []) = [.present 0x200000000#34] ∧
  assembleLine .next = [.present 0x300000000#34] ∧
  (∀ s, accept 0x200000000#34 s = .next { s with fault := true, cause := .zeroLengthKey }) ∧
  assembleLine (.word 0x000000000) = [.present 0x000000000#34] ∧
  assembleLine (.word 0x300000001) = [.present 0x300000001#34] ∧
  (∀ s, accept 0x000000000#34 s = .next { s with fault := true, cause := .illegalCommand }) ∧
  ∀ s, accept 0x300000001#34 s = .next { s with fault := true, cause := .illegalCommand }

/-- R81, R82: the command words that the well-formed lines present, and where the key words they write go; the word of the
`NEXT` line itself is in WorkedLinesEncode. That a `SEEDA.L` line presents its command alone and writes no key word,
whatever lines stand before it, is the model's choice (log entry 11). -/
def Obligations.LinesPresentTheirWords : Prop :=
  (∀ seed, (Line.seeds seed).wellFormed = true →
    ∃ cw : CmdWord, assembleLine (.seeds seed) = [.present cw] ∧ cw.toNat = 0x100000000 + seed) ∧
  (∀ len, (Line.seedaLen len).wellFormed = true →
    ∃ cw : CmdWord, assembleLine (.seedaLen len) = [.present cw] ∧ cw.toNat = 0x200000000 + len) ∧
  (∀ raw, (Line.word raw).wellFormed = true →
    ∃ cw : CmdWord, assembleLine (.word raw) = [.present cw] ∧ cw.toNat = raw) ∧
  (∀ n, assembleLine (.nextn n) = (List.replicate n (assembleLine .next)).flatten) ∧
  (∀ words, (Line.key words).wellFormed = true →
    (assembleLine (.key words)).length = words.length ∧
    ∀ j, j < words.length →
      ∃ i w : Word, (assembleLine (.key words))[j]? = some (.setKey i w) ∧ i.toNat = j ∧ words[j]? = some w.toNat) ∧
  (∀ words, (Line.seedaKey words).wellFormed = true →
    ∃ cw : CmdWord, assembleLine (.seedaKey words) = assembleLine (.key words) ++ [.present cw] ∧
      cw.toNat = 0x200000000 + words.length) ∧
  ∀ e0 e1 e2 e3, assembleLine (.create e0 e1 e2 e3) = assembleLine (.seedaKey [e0, e1, e2, e3])

/-! ## Acceptance and faults -/

/-- R58, R74, R75, R76, R171, R174: every command word presented when `cmd_ready` = 1 is accepted, and the step is what
acceptance does: a word that decodes to a command executes it, a reserved word raises `IllegalCommand` and nothing else.
Around it the step only takes the action from the host's list and ends the pulse on `res_valid`; that list, that pulse and
the whole command within the one step are the model's (log entries 1, 3, 8). -/
def Obligations.AcceptedCommandExecutes : Prop :=
  ∀ (s : State) (cw : CmdWord) (rest : List HostAction), s.host = .present cw :: rest → s.cmdReady = true →
    step s = accept cw { s with host := rest, resValid := false } ∧
    (∀ i, decode cw = .command i → step s = exec i { s with host := rest, resValid := false }) ∧
    ((opField cw = 0b00#2 ∨ (opField cw = 0b11#2 ∧ argField cw ≠ 0#32)) →
      step s = .next { s with host := rest, resValid := false, fault := true, cause := .illegalCommand })

/-- R75: `cmd_ready` = 1 exactly when the engine is not in reset, no accepted command is still executing and `FAULT` = 0;
a word presented while it is 0 is not accepted and has no effect: the step is that of an idle edge. -/
def Obligations.NotReadyIsNotAccepted : Prop :=
  (∀ s : State, s.cmdReady = true ↔ (s.rst = false ∧ s.busy = none ∧ s.fault = false)) ∧
  ∀ (s : State) (cw : CmdWord) (rest : List HostAction), s.host = .present cw :: rest → s.cmdReady = false →
    step s = step { s with host := .idle :: rest }

/-- R111, R171 to R174: the three fault conditions and their entry. In each, whatever `INIT` is (but where it is the
condition), the next state differs in `FAULT` and `CAUSE` alone. -/
def Obligations.FaultEntryIsPrecise : Prop :=
  ∀ s : State,
    (∀ cw : CmdWord, (opField cw = 0b00#2 ∨ (opField cw = 0b11#2 ∧ argField cw ≠ 0#32)) →
      accept cw s = .next { s with fault := true, cause := .illegalCommand }) ∧
    (s.init = false → exec .next s = .next { s with fault := true, cause := .notInitialised }) ∧
    exec (.seeda 0) s = .next { s with fault := true, cause := .zeroLengthKey }

/-- R177, R176: a command meets its fault condition or runs to completion: what an accepted command word does to `FAULT`
is decided by the word and the state before it, and `SEEDS` never faults. -/
def Obligations.FaultConditionsDecideFault : Prop :=
  ∀ (s t : State) (cw : CmdWord), s.fault = false → accept cw s = .next t →
    (t.fault = true ↔
      ((∃ why, decode cw = .illegal why) ∨ (decode cw = .command .next ∧ s.init = false) ∨
        decode cw = .command (.seeda 0)))

/-- R175: while `FAULT` = 1 and `rst` is not driven to 1, no step changes the engine: nothing is accepted, emitted or
read. The premise on `busy` is the invariant of WaitingIsKept. -/
def Obligations.FaultIsSticky : Prop :=
  ∀ s t : State, s.WaitIsForKey → s.fault = true → ¬ ResetEdge s → step s = .next t →
    t.fault = true ∧ t.cause = s.cause ∧ t.mt = s.mt ∧ t.idx = s.idx ∧ t.init = s.init ∧ t.res = s.res ∧
      t.busy = none ∧ t.resValid = false ∧ t.cmdReady = false ∧ t.emitted = s.emitted ∧ t.keyReads = s.keyReads

/-- R26, R27, R200: reset is the only way to clear `FAULT` and `INIT`. -/
def Obligations.OnlyResetClearsFaultAndInit : Prop :=
  ∀ s t : State, step s = .next t → ¬ ResetEdge s →
    (s.fault = true → t.fault = true) ∧ (s.init = true → t.init = true)

/-- R58, R176: no command stops the machine; a step answers a next state unless two masters drive the command port at
an edge that would accept, or power or the clock is removed (log entry 7: the model's own two stops). -/
def Obligations.OnlyOutsideEventsStop : Prop :=
  ∀ s : State,
    (∃ t, step s = .next t) ∨
    (s.cmdReady = true ∧ (∃ cw1 cw2 rest, s.host = .contend cw1 cw2 :: rest) ∧ step s = .fault .commandPortRace) ∨
    ((∃ rest, s.host = .losePower :: rest) ∧ step s = .refused .powerOrClockLost)

/-! ## SEEDS -/

/-- R100: `op` = 01 with `arg` = `s` is `SEEDS s`, which completes in every state, with the recurrence, `IDX` = 624,
`INIT` = 1, and nothing else changed. -/
def Obligations.SeedsFillsByRecurrence : Prop :=
  ∀ (seed : Word) (s : State), decode (0b01#2 ++ seed) = .command (.seeds seed) ∧
    ∃ t, exec (.seeds seed) s = .next t ∧ FilledFrom seed t.mt ∧
      t = { s with mt := t.mt, idx := 624, init := true }

/-- R103: after `SEEDS s`, `MT[0]` = `s`, so it is `0x80000000` for that seed only; after a completed `SEEDA` it always
is. -/
def Obligations.WordZeroAfterSeeding : Prop :=
  ∀ s : State,
    (∀ seed : Word, ∃ t, exec (.seeds seed) s = .next t ∧ RegFile.get t.mt 0 = seed ∧
      (RegFile.get t.mt 0 = 0x80000000 ↔ seed = 0x80000000)) ∧
    ∀ len : Word, len ≠ 0 → KeysAnswered s len →
      ∃ t, exec (.seeda len) s = .next t ∧ RegFile.get t.mt 0 = 0x80000000

/-- R101, R102: the result of `SEEDS` does not depend on the state before it, and neither does the first word drawn
after it, for which the twist is due. -/
def Obligations.SeedsForgetsTheStateBefore : Prop :=
  ∀ (seed : Word) (s s' : State), ∃ t t' u u',
    exec (.seeds seed) s = .next t ∧ exec (.seeds seed) s' = .next t' ∧ t.mt = t'.mt ∧ t.idx = t'.idx ∧
      t.exhausted = true ∧ exec .next t = .next u ∧ exec .next t' = .next u' ∧ u.res = u'.res ∧ u.mt = u'.mt ∧
      u.mt = twist t.mt

/-! ## SEEDA -/

/-- R110, R112 to R117: with every key word answered `SEEDA L` completes. There is a sequence of register files: the
first filled by the scalar recurrence from 19650218; then max(624, `L`) iterations of pass 1 and 623 of pass 2, the n-th
iteration (over both passes) at position 1 + n mod 623, in pass 1 with the key index n mod `L`; then `MT[0]` is forced.
`IDX` = 624, `INIT` = 1, and nothing else changes but the record of the key reads. (The two expressions are the spec's
from general knowledge: "The exact iteration is", R113, R114; 93_implementation_defined.md G2.) -/
def Obligations.SeedaMixesTheKey : Prop :=
  ∀ (len : Word) (s : State), len ≠ 0 → KeysAnswered s len →
    ∃ (t : State) (m : Nat → RegFile), exec (.seeda len) s = .next t ∧
      FilledFrom 19650218 (m 0) ∧
      (∀ n, n < max 624 len.toNat →
        WalkWrites (m n) (m (n + 1)) (1 + n % 623)
          ((RegFile.get (m n) (1 + n % 623) ^^^
              ((RegFile.get (m n) (n % 623) ^^^ (RegFile.get (m n) (n % 623) >>> 30)) * 1664525#32)) +
            keyWord s (n % len.toNat) + BitVec.ofNat 32 (n % len.toNat))) ∧
      (∀ n, max 624 len.toNat ≤ n → n < max 624 len.toNat + 623 →
        WalkWrites (m n) (m (n + 1)) (1 + n % 623)
          ((RegFile.get (m n) (1 + n % 623) ^^^
              ((RegFile.get (m n) (n % 623) ^^^ (RegFile.get (m n) (n % 623) >>> 30)) * 1566083941#32)) -
            BitVec.ofNat 32 (1 + n % 623))) ∧
      RegFile.get t.mt 0 = 0x80000000 ∧
      (∀ q, 1 ≤ q → q < 624 → RegFile.get t.mt q = RegFile.get (m (max 624 len.toNat + 623)) q) ∧
      t = { s with mt := t.mt, idx := 624, init := true, busy := none, keyReads := t.keyReads }

/-- R52: a completed `SEEDA` makes exactly max(624, `L`) key reads, read n of key index n mod `L`; each key word is read
once when `L` >= 624, and word `j` ceil((624 - j) / `L`) times when `L` < 624; `SEEDS`, `NEXT` and a faulting `SEEDA`
make none. -/
def Obligations.KeyReadsInOrder : Prop :=
  (∀ (len : Word) (s : State), len ≠ 0 → KeysAnswered s len →
    ∃ (t : State) (reads : List Word), exec (.seeda len) s = .next t ∧ t.keyReads = s.keyReads ++ reads ∧
      reads.length = max 624 len.toNat ∧
      (∀ n, n < max 624 len.toNat → reads[n]? = some (BitVec.ofNat 32 (n % len.toNat))) ∧
      ∀ j, j < len.toNat →
        reads.count (BitVec.ofNat 32 j) =
          (if 624 ≤ len.toNat then 1 else (624 - j + (len.toNat - 1)) / len.toNat)) ∧
  (∀ (seed : Word) (s : State), ∃ t, exec (.seeds seed) s = .next t ∧ t.keyReads = s.keyReads) ∧
  (∀ s : State, ∃ t, exec .next s = .next t ∧ t.keyReads = s.keyReads) ∧
  ∀ s : State, ∃ t, exec (.seeda 0) s = .next t ∧ t.keyReads = s.keyReads

/-- R118: the generator state `SEEDA` leaves depends on `L` and the `L` key words alone. -/
def Obligations.SeedaDependsOnKeyAlone : Prop :=
  ∀ (len : Word) (s s' : State), len ≠ 0 → KeysAnswered s len →
    (∀ j, j < len.toNat → KeyMem.read s.keyMem j = KeyMem.read s'.keyMem j) →
      ∃ t t', exec (.seeda len) s = .next t ∧ exec (.seeda len) s' = .next t' ∧ t.mt = t'.mt ∧ t.idx = t'.idx ∧
        t.init = t'.init

/-- R78, R75: a `SEEDA` whose host answers the key indices below `j` and not `j` waits: `key_req` = 1 with `key_idx` =
`j`, `cmd_ready` = 0; the reads of 0, ..., `j` - 1 are made. That the accepting transition itself makes those reads and
ends at the request of `j` is the model's schedule (log entry 5); that the architectural registers still hold what they
held before the command is the model's choice too (log entry 4). -/
def Obligations.SeedaWaitsForKeyWord : Prop :=
  ∀ (len j : Word) (s : State), j.toNat < len.toNat → KeyMem.read s.keyMem j.toNat = none →
    (∀ k, k < j.toNat → (KeyMem.read s.keyMem k).isSome = true) →
      ∃ t run, exec (.seeda len) s = .next t ∧ t.keyReq = true ∧ t.keyIdx = some j ∧ t.cmdReady = false ∧
        t = { s with busy := some run, keyReads := s.keyReads ++ (List.range j.toNat).map (BitVec.ofNat 32) }

/-- R78: while its key word is not answered, and `rst` is not driven to 1, a waiting `SEEDA` stays: `cmd_ready` = 0, and
nothing else happens. That the architectural registers keep what they held is the model's choice (log entry 4), and so is
that no read is answered but at the edges of log entry 5. -/
def Obligations.WaitHoldsEverything : Prop :=
  ∀ (s t : State) (run : SeedaRun), s.WaitIsForKey → s.busy = some run → ¬ ResetEdge s →
    (∀ j w rest, s.Performs (.setKey j w) rest → j.toNat ≠ run.nextIndex) → step s = .next t →
      t = { s with host := t.host, resValid := false, keyMem := t.keyMem } ∧ t.cmdReady = false ∧ t.keyReq = true

/-- R51, R63, R78: it makes no difference whether the host supplies a key word before it presents the `SEEDA` or while
the `SEEDA` waits: the step that supplies it leads to the very state that the command would have given with the word in
place. (That the engine goes on at that same edge is the model's schedule: log entry 5.) -/
def Obligations.LateKeyWordEqualsEarly : Prop :=
  ∀ (len j w : Word) (s t : State) (rest : List HostAction),
    s.rst = false → s.busy = none → KeyMem.read s.keyMem j.toNat = none → exec (.seeda len) s = .next t →
      step { t with host := .setKey j w :: rest } =
        exec (.seeda len)
          { s with keyMem := KeyMem.write s.keyMem j.toNat w, host := rest, resValid := false }

/-! ## NEXT -/

/-- R130, R133, R135, R136: `NEXT` on a seeded engine with `IDX` < 624 draws `MT[IDX]`, tempered, into `RES` and out of
the result port, adds 1 to `IDX`, and changes nothing else. -/
def Obligations.NextDrawsPendingWord : Prop :=
  ∀ s : State, s.init = true → s.idx.toNat < 624 →
    ∃ t, exec .next s = .next t ∧ TempersTo (RegFile.get s.mt s.idx.toNat) t.res ∧
      t.idx.toNat = s.idx.toNat + 1 ∧
      t = { s with idx := t.idx, res := t.res, resValid := true, emitted := s.emitted ++ [t.res] }

/-- R130, R131: `NEXT` on a seeded engine with `IDX` >= 624 (625 to 1023 as 624) regenerates every word in place, in
ascending order (`MATRIX_A` is the spec's from general knowledge, G1; the order is its C6): for k <= 226 the third operand is the old `MT[k+397]`, for k >= 227 the new `MT[k-227]`; the second is
the old `MT[k+1]`, for k = 623 the new `MT[0]`; `MT[k]` is old. Then it draws the new `MT[0]`. -/
def Obligations.NextTwistsWhenExhausted : Prop :=
  ∀ s : State, s.init = true → 624 ≤ s.idx.toNat →
    ∃ t, exec .next s = .next t ∧
      (∀ k, k < 624 → ∃ y : Word,
        y = (RegFile.get s.mt k &&& 0x80000000) |||
            ((if k = 623 then RegFile.get t.mt 0 else RegFile.get s.mt (k + 1)) &&& 0x7FFFFFFF) ∧
        RegFile.get t.mt k =
          (if k < 227 then RegFile.get s.mt (k + 397) else RegFile.get t.mt (k - 227)) ^^^ (y >>> 1) ^^^
            (if y.getLsbD 0 = true then 0x9908B0DF else 0)) ∧
      TempersTo (RegFile.get t.mt 0) t.res ∧
      t = { s with mt := t.mt, idx := 1, res := t.res, resValid := true, emitted := s.emitted ++ [t.res] }

/-- R132: the three-range form is equal, word for word, to the direct modulo form. -/
def Obligations.ThreeRangeFormEqualsTwist : Prop :=
  ∀ m : RegFile, twistThreeRanges m = twist m

/-- R134, R139, R140: from a freshly seeded, ready engine, n `NEXT`s in a row complete; the k-th of them (k from 0)
emits the tempering of word k mod 624 of the register file twisted k / 624 + 1 times; `IDX` ends at ((n - 1) mod 624) + 1
and ceil(n / 624) twists have run. That each `NEXT` is over, and `cmd_ready` = 1 again, within its own step is the
model's choice (log entry 8). -/
def Obligations.DrawsFollowTheTwists : Prop :=
  ∀ (n : Nat) (s : State) (rest : List HostAction),
    s.cmdReady = true → s.init = true → s.idx = 624 →
    s.host = List.replicate n (.present 0x300000000#34) ++ rest →
      ∃ t : State, core.run n s = .next t ∧
        t.emitted = s.emitted ++
          (List.range n).map (fun k => temper (RegFile.get (twist^[k / 624 + 1] s.mt) (k % 624))) ∧
        t.mt = twist^[(n + 623) / 624] s.mt ∧
        t.idx.toNat = (if n = 0 then 624 else (n - 1) % 624 + 1) ∧
        t.cmdReady = true ∧ t.init = true ∧ t.host = rest ∧ t.keyReads = s.keyReads ∧ t.keyMem = s.keyMem

/-- R11, R58, R64, R140: the output after a seeding command is a function of the seed alone: two ready engines, whatever
their histories, given the same seeding command (and the same key words) and then n `NEXT`s emit the same n words. That each command is
over within its own step is the model's choice (log entry 8). -/
def Obligations.SeedDeterminesOutput : Prop :=
  ∀ (n : Nat) (i : Instr) (s s' : State) (rest rest' : List HostAction),
    s.cmdReady = true → s'.cmdReady = true → SeedsAlike i s s' →
    s.host = .present (encode i) :: (List.replicate n (.present (encode .next)) ++ rest) →
    s'.host = .present (encode i) :: (List.replicate n (.present (encode .next)) ++ rest') →
      ∃ (t t' : State) (out : List Word), core.run (n + 1) s = .next t ∧ core.run (n + 1) s' = .next t' ∧
        out.length = n ∧ t.emitted = s.emitted ++ out ∧ t'.emitted = s'.emitted ++ out ∧ t.mt = t'.mt ∧
        t.idx = t'.idx

/-! ## Whole-machine rules -/

/-- R30, R77: a step writes `RES`, emits a word and pulses `res_valid` only as an accepted `NEXT` on a seeded engine,
which emits exactly one word, the one in `RES`; else `RES` is left alone but by reset, which zeroes it. -/
def Obligations.ResultsComeFromNextAlone : Prop :=
  ∀ s t : State, step s = .next t →
    (Accepts s .next ∧ s.init = true ∧ t.emitted = s.emitted ++ [t.res] ∧ t.resValid = true) ∨
    (¬ (Accepts s .next ∧ s.init = true) ∧ t.emitted = s.emitted ∧ t.resValid = false ∧
      (t.res = s.res ∨ (ResetEdge s ∧ t.res = 0)))

/-- R21, R22, R138: what a step may do to `MT` and `IDX`: nothing; a seeding command completing (just accepted, or the
one that waited) leaves 624; `NEXT` draws, adding 1, or twists and leaves 1; reset zeroes both. That a step at which a `SEEDA` is accepted
and waits, or goes on waiting, leaves both alone is the model's choice (log entry 4). -/
def Obligations.GeneratorStateWriters : Prop :=
  ∀ s t : State, step s = .next t →
    (t.mt = s.mt ∧ t.idx = s.idx) ∨
    (((∃ seed, Accepts s (.seeds seed)) ∨ (∃ len, len ≠ 0 ∧ Accepts s (.seeda len)) ∨ ∃ run, s.busy = some run) ∧
      t.idx = 624 ∧ t.init = true ∧ t.busy = none) ∨
    (Accepts s .next ∧ s.init = true ∧ s.idx.toNat < 624 ∧ t.mt = s.mt ∧ t.idx.toNat = s.idx.toNat + 1) ∨
    (Accepts s .next ∧ s.init = true ∧ 624 ≤ s.idx.toNat ∧ t.mt = twist s.mt ∧ t.idx = 1) ∨
    (ResetEdge s ∧ t.mt = Vector.replicate 624 0 ∧ t.idx = 0)

/-- R34, R186: an idle edge, in a state no run's invariants exclude, changes nothing: only the pulse on `res_valid` ends. -/
def Obligations.IdleHoldsTheState : Prop :=
  ∀ (s : State) (rest : List HostAction), s.WaitIsForKey → s.ResetHolds → s.Performs .idle rest →
    step s = .next { s with host := rest, resValid := false }

/-- R200, R201: driving `rst` to 1, in any state, a command in progress or not, gives the reset values, with `cmd_ready`,
`key_req` and `res_valid` 0; back at 0 the engine is idle, uninitialised and ready. The host's key memory is not touched. -/
def Obligations.ResetFromAnyState : Prop :=
  ∀ (s : State) (rest : List HostAction), s.host = .setRst true :: .setRst false :: rest →
    ∃ t u, step s = .next t ∧ t.AtReset ∧ t.rst = true ∧ t.cmdReady = false ∧ t.keyReq = false ∧
      step t = .next u ∧ u.AtReset ∧ u.rst = false ∧ u.cmdReady = true ∧ u.host = rest ∧
      u.keyMem = s.keyMem ∧ u.emitted = s.emitted ∧ u.keyReads = s.keyReads

/-- R206: the host sequence create_generator, from any state: reset, four key words, `SEEDA` with `L` = 4; seven steps
later the engine is seeded from those four words, ready and Exhausted. That this takes seven steps, one for each of the
host's actions, is the model's choice (log entries 1, 5, 8). -/
def Obligations.CreateGeneratorSeeds : Prop :=
  ∀ (s : State) (e0 e1 e2 e3 : Nat) (rest : List HostAction),
    (Line.create e0 e1 e2 e3).wellFormed = true → s.host = createGenerator e0 e1 e2 e3 ++ rest →
      ∃ t : State, core.run 7 s = .next t ∧ t.host = rest ∧ t.cmdReady = true ∧ t.init = true ∧ t.fault = false ∧
        t.exhausted = true ∧ RegFile.get t.mt 0 = 0x80000000 ∧
        t.mt = arrayFill 4 ((List.range 624).map fun n =>
          BitVec.ofNat 32 (if n % 4 = 0 then e0 else if n % 4 = 1 then e1 else if n % 4 = 2 then e2 else e3))
          (Vector.replicate 624 0) ∧
        t.emitted = s.emitted

/-! ## Memory -/

/-- R51, R55: what the host wrote at a key index is what a read of it returns, and no other index changes. -/
def Obligations.KeyMemoryReadsBack : Prop :=
  ∀ (s : State) (j w : Word),
    KeyMem.read (s.writeKey j w).keyMem j.toNat = some w ∧
    (∀ k, k ≠ j.toNat → KeyMem.read (s.writeKey j w).keyMem k = KeyMem.read s.keyMem k) ∧
    s.writeKey j w = { s with keyMem := (s.writeKey j w).keyMem }

/-- R50: the engine never writes the key space: only the host's own action does. -/
def Obligations.EngineNeverWritesKeys : Prop :=
  (∀ (i : Instr) (s : State), ∃ t, exec i s = .next t ∧ t.keyMem = s.keyMem) ∧
  ∀ s t : State, step s = .next t → t.keyMem ≠ s.keyMem → ∃ j w rest, s.Performs (.setKey j w) rest ∧
    t.keyMem = KeyMem.write s.keyMem j.toNat w

/-! ## Status and result -/

/-- R28, R29, R79, R170: the status register's bits, and the codes of the causes. -/
def Obligations.StatusShowsTheFlags : Prop :=
  (∀ s : State, s.status.getLsbD 0 = s.init ∧ s.status.getLsbD 1 = s.fault ∧
    s.status.extractLsb' 2 2 = s.cause.code) ∧
  Cause.none.code = 0 ∧ Cause.illegalCommand.code = 1 ∧ Cause.notInitialised.code = 2 ∧
  Cause.zeroLengthKey.code = 3 ∧ State.reset.status = 0b0000#4

/-- R10, R137: the signed reading of a result is the two's-complement reading of the same bits, negative exactly when
bit 31 is 1. -/
def Obligations.SignedReadingOfResult : Prop :=
  ∀ v : Word, BitVec.ofInt 32 (sint32 v) = v ∧ (sint32 v < 0 ↔ v.getLsbD 31 = true) ∧
    -(2 ^ 31) ≤ sint32 v ∧ sint32 v < 2 ^ 31

/-! ## Invariants: at reset, and kept by every step -/

/-- R33: the state right after reset. -/
def Obligations.ResetValues : Prop :=
  State.reset.AtReset ∧ State.reset.rst = false ∧ State.reset.cmdReady = true ∧ State.reset.keyReq = false

/-- The invariants below hold at reset. That the host's side is empty there is the model's choice (log entries 1 to 3). -/
def Obligations.InvariantsHoldAtReset : Prop :=
  State.reset.PositionInRange ∧ State.reset.CauseTellsFault ∧ State.reset.ResetHolds ∧
    State.reset.UnseededIsZero ∧ State.reset.SeededIsLive ∧ State.reset.WaitIsForKey ∧
    State.reset.PulseShowsResult ∧ KeyMem.wf State.reset.keyMem

/-- R23: every step keeps 0 <= `IDX` <= 624. -/
def Obligations.PositionStaysInRange : Prop :=
  ∀ s t : State, s.PositionInRange → step s = .next t → t.PositionInRange

/-- R28: every step keeps `CAUSE` = 0 if and only if `FAULT` = 0. -/
def Obligations.CauseKeepsTellingFault : Prop :=
  ∀ s t : State, s.CauseTellsFault → step s = .next t → t.CauseTellsFault

/-- R200: every step keeps the engine at its reset values while `rst` = 1. -/
def Obligations.ResetKeepsHolding : Prop :=
  ∀ s t : State, s.ResetHolds → step s = .next t → t.ResetHolds

/-- R22, R30, R33, R35: every step keeps `MT`, `IDX` and `RES` at zero until the first seeding command completes. That
`MT` and `IDX` are still zero while the first `SEEDA` waits is the model's choice (log entry 4); that they are zero before
it, as R33's table has them, nothing outside can see (log entry 10). -/
def Obligations.UnseededStaysZero : Prop :=
  ∀ s t : State, s.UnseededIsZero → step s = .next t → t.UnseededIsZero

/-- R35: every step keeps a seeded engine off the all-zero register file, in the strong form that some bit the twist
reads is set; so no draw after seeding is ever made from the degenerate state. That a seeded engine whose next
`SEEDA` waits still holds the old array is the model's choice (log entry 4). -/
def Obligations.SeededStaysLive : Prop :=
  ∀ s t : State, s.SeededIsLive → step s = .next t → t.SeededIsLive

/-- R75, R78: every step keeps it true that a command still executing is a `SEEDA` waiting for a key word the host has
not answered. (log entries 4, 5.) -/
def Obligations.WaitingIsKept : Prop :=
  ∀ s t : State, s.WaitIsForKey → step s = .next t → t.WaitIsForKey

/-- R77: every step keeps it true that the pulse on `res_valid` marks the word last emitted, which `RES` holds. -/
def Obligations.PulseKeepsShowingResult : Prop :=
  ∀ s t : State, s.PulseShowsResult → step s = .next t → t.PulseShowsResult

/-- Every step keeps the canonical form of key memory (log entry 2). -/
def Obligations.KeyMemoryStaysCanonical : Prop :=
  ∀ s t : State, KeyMem.wf s.keyMem → step s = .next t → KeyMem.wf t.keyMem

/-- R35: a twist of the all-zero register file gives all zeros and its draws are zero; neither seeding command leaves
it. -/
def Obligations.ZeroFileIsDegenerate : Prop :=
  twist (Vector.replicate 624 0) = Vector.replicate 624 0 ∧ temper 0 = 0 ∧
  (∀ (seed : Word) (s : State), ∃ t, exec (.seeds seed) s = .next t ∧ t.mt ≠ Vector.replicate 624 0 ∧
    RegFile.Live t.mt) ∧
  ∀ (len : Word) (s : State), len ≠ 0 → KeysAnswered s len →
    ∃ t, exec (.seeda len) s = .next t ∧ t.mt ≠ Vector.replicate 624 0 ∧ RegFile.Live t.mt
end

