-- ==== Sys2Proof/Laws/RegFile.lean ====
section
/-! SUPPORT. The register file: a read after a write, equality by reads, and the induction over a counted loop. -/

namespace Sys2Proof.Machine

theorem RegFile.get_eq_getElem (m : RegFile) (i : Nat) (h : i < 624) : RegFile.get m i = m[i] := by
  simp [RegFile.get, Vector.getD, h]

/-- A read after a write: the word written at its own place, the old word elsewhere. -/
theorem RegFile.get_set (m : RegFile) (i j : Nat) (v : Word) (hj : j < 624) :
    RegFile.get (RegFile.set m i v) j = if i = j then v else RegFile.get m j := by
  rw [RegFile.get_eq_getElem _ _ hj, RegFile.get_eq_getElem _ _ hj]
  simp [RegFile.set, Vector.getElem_setIfInBounds]

theorem RegFile.get_set_self (m : RegFile) (i : Nat) (v : Word) (hi : i < 624) :
    RegFile.get (RegFile.set m i v) i = v := by
  simp [RegFile.get_set, hi]

theorem RegFile.get_set_other (m : RegFile) (i j : Nat) (v : Word) (hj : j < 624) (h : i ≠ j) :
    RegFile.get (RegFile.set m i v) j = RegFile.get m j := by
  simp [RegFile.get_set, hj, h]

theorem RegFile.get_replicate (i : Nat) : RegFile.get (Vector.replicate 624 0) i = 0 := by
  by_cases h : i < 624
  · rw [RegFile.get_eq_getElem _ _ h]; simp
  · simp [RegFile.get, Vector.getD, h]

/-- Two register files that read alike are equal. -/
theorem RegFile.ext_get (m m' : RegFile) (h : ∀ i, i < 624 → RegFile.get m i = RegFile.get m' i) : m = m' := by
  apply Vector.ext
  intro i hi
  rw [← RegFile.get_eq_getElem m i hi, ← RegFile.get_eq_getElem m' i hi]
  exact h i hi

section Loop

variable {σ : Type} (body : Nat → σ → σ)

@[simp] theorem forUp_zero (first : Nat) (s : σ) : forUp body 0 first s = s := rfl

theorem forUp_succ (count first : Nat) (s : σ) :
    forUp body (count + 1) first s = forUp body count (first + 1) (body first s) := rfl

/-- A loop cut in two. -/
theorem forUp_add (a b first : Nat) (s : σ) :
    forUp body (a + b) first s = forUp body b (first + a) (forUp body a first s) := by
  induction a generalizing first s with
  | zero => simp
  | succ a ih =>
    rw [show a + 1 + b = (a + b) + 1 by omega, forUp_succ, ih, forUp_succ]
    congr 1; omega

/-- The last run of a loop. -/
theorem forUp_last (count first : Nat) (s : σ) :
    forUp body (count + 1) first s = body (first + count) (forUp body count first s) := by
  rw [forUp_add body count 1]; rfl

/-- The induction over a loop: what holds before it and is carried from each counter value to the next holds after it. -/
theorem forUp_induct (P : Nat → σ → Prop) (count first : Nat) (s : σ) (h0 : P first s)
    (hs : ∀ k s, first ≤ k → k < first + count → P k s → P (k + 1) (body k s)) :
    P (first + count) (forUp body count first s) := by
  induction count with
  | zero => simpa using h0
  | succ n ih =>
    rw [forUp_last, ← Nat.add_assoc]
    exact hs _ _ (by omega) (by omega) (ih fun k s h1 h2 => hs k s h1 (by omega))

/-- Two loops whose bodies agree on the counter's range. -/
theorem forUp_congr (body' : Nat → σ → σ) (count first : Nat) (s : σ)
    (h : ∀ k s, first ≤ k → k < first + count → body k s = body' k s) :
    forUp body count first s = forUp body' count first s := by
  induction count with
  | zero => rfl
  | succ n ih =>
    rw [forUp_last, forUp_last, ih fun k s h1 h2 => h k s h1 (by omega), h _ _ (by omega) (by omega)]

end Loop

end Sys2Proof.Machine
end

