-- ==== Sys2Proof/Laws/State.lean ====
section
/-! SUPPORT. What each update of Machine/Ops.lean does to each field of the state: one lemma per field, true by rfl. -/

namespace Sys2Proof.Machine

/-! `raise` -/

@[simp] theorem State.raise_mt (s : State) (c : Cause) : (s.raise c).mt = s.mt := rfl
@[simp] theorem State.raise_idx (s : State) (c : Cause) : (s.raise c).idx = s.idx := rfl
@[simp] theorem State.raise_init (s : State) (c : Cause) : (s.raise c).init = s.init := rfl
@[simp] theorem State.raise_fault (s : State) (c : Cause) : (s.raise c).fault = true := rfl
@[simp] theorem State.raise_cause (s : State) (c : Cause) : (s.raise c).cause = c := rfl
@[simp] theorem State.raise_res (s : State) (c : Cause) : (s.raise c).res = s.res := rfl
@[simp] theorem State.raise_busy (s : State) (c : Cause) : (s.raise c).busy = s.busy := rfl
@[simp] theorem State.raise_rst (s : State) (c : Cause) : (s.raise c).rst = s.rst := rfl
@[simp] theorem State.raise_resValid (s : State) (c : Cause) : (s.raise c).resValid = s.resValid := rfl
@[simp] theorem State.raise_keyMem (s : State) (c : Cause) : (s.raise c).keyMem = s.keyMem := rfl
@[simp] theorem State.raise_host (s : State) (c : Cause) : (s.raise c).host = s.host := rfl
@[simp] theorem State.raise_emitted (s : State) (c : Cause) : (s.raise c).emitted = s.emitted := rfl
@[simp] theorem State.raise_keyReads (s : State) (c : Cause) : (s.raise c).keyReads = s.keyReads := rfl

/-! `seeded` -/

@[simp] theorem State.seeded_mt (s : State) (m : RegFile) : (s.seeded m).mt = m := rfl
@[simp] theorem State.seeded_idx (s : State) (m : RegFile) : (s.seeded m).idx = 624 := rfl
@[simp] theorem State.seeded_init (s : State) (m : RegFile) : (s.seeded m).init = true := rfl
@[simp] theorem State.seeded_fault (s : State) (m : RegFile) : (s.seeded m).fault = s.fault := rfl
@[simp] theorem State.seeded_cause (s : State) (m : RegFile) : (s.seeded m).cause = s.cause := rfl
@[simp] theorem State.seeded_res (s : State) (m : RegFile) : (s.seeded m).res = s.res := rfl
@[simp] theorem State.seeded_busy (s : State) (m : RegFile) : (s.seeded m).busy = s.busy := rfl
@[simp] theorem State.seeded_rst (s : State) (m : RegFile) : (s.seeded m).rst = s.rst := rfl
@[simp] theorem State.seeded_resValid (s : State) (m : RegFile) : (s.seeded m).resValid = s.resValid := rfl
@[simp] theorem State.seeded_keyMem (s : State) (m : RegFile) : (s.seeded m).keyMem = s.keyMem := rfl
@[simp] theorem State.seeded_host (s : State) (m : RegFile) : (s.seeded m).host = s.host := rfl
@[simp] theorem State.seeded_emitted (s : State) (m : RegFile) : (s.seeded m).emitted = s.emitted := rfl
@[simp] theorem State.seeded_keyReads (s : State) (m : RegFile) : (s.seeded m).keyReads = s.keyReads := rfl

/-! `regenerated` -/

@[simp] theorem State.regenerated_mt (s : State) (m : RegFile) : (s.regenerated m).mt = m := rfl
@[simp] theorem State.regenerated_idx (s : State) (m : RegFile) : (s.regenerated m).idx = 0 := rfl
@[simp] theorem State.regenerated_init (s : State) (m : RegFile) : (s.regenerated m).init = s.init := rfl
@[simp] theorem State.regenerated_fault (s : State) (m : RegFile) : (s.regenerated m).fault = s.fault := rfl
@[simp] theorem State.regenerated_cause (s : State) (m : RegFile) : (s.regenerated m).cause = s.cause := rfl
@[simp] theorem State.regenerated_res (s : State) (m : RegFile) : (s.regenerated m).res = s.res := rfl
@[simp] theorem State.regenerated_busy (s : State) (m : RegFile) : (s.regenerated m).busy = s.busy := rfl
@[simp] theorem State.regenerated_rst (s : State) (m : RegFile) : (s.regenerated m).rst = s.rst := rfl
@[simp] theorem State.regenerated_resValid (s : State) (m : RegFile) : (s.regenerated m).resValid = s.resValid := rfl
@[simp] theorem State.regenerated_keyMem (s : State) (m : RegFile) : (s.regenerated m).keyMem = s.keyMem := rfl
@[simp] theorem State.regenerated_host (s : State) (m : RegFile) : (s.regenerated m).host = s.host := rfl
@[simp] theorem State.regenerated_emitted (s : State) (m : RegFile) : (s.regenerated m).emitted = s.emitted := rfl
@[simp] theorem State.regenerated_keyReads (s : State) (m : RegFile) : (s.regenerated m).keyReads = s.keyReads := rfl

/-! `advance` -/

@[simp] theorem State.advance_mt (s : State) : (s.advance).mt = s.mt := rfl
@[simp] theorem State.advance_idx (s : State) : (s.advance).idx = s.idx + 1 := rfl
@[simp] theorem State.advance_init (s : State) : (s.advance).init = s.init := rfl
@[simp] theorem State.advance_fault (s : State) : (s.advance).fault = s.fault := rfl
@[simp] theorem State.advance_cause (s : State) : (s.advance).cause = s.cause := rfl
@[simp] theorem State.advance_res (s : State) : (s.advance).res = s.res := rfl
@[simp] theorem State.advance_busy (s : State) : (s.advance).busy = s.busy := rfl
@[simp] theorem State.advance_rst (s : State) : (s.advance).rst = s.rst := rfl
@[simp] theorem State.advance_resValid (s : State) : (s.advance).resValid = s.resValid := rfl
@[simp] theorem State.advance_keyMem (s : State) : (s.advance).keyMem = s.keyMem := rfl
@[simp] theorem State.advance_host (s : State) : (s.advance).host = s.host := rfl
@[simp] theorem State.advance_emitted (s : State) : (s.advance).emitted = s.emitted := rfl
@[simp] theorem State.advance_keyReads (s : State) : (s.advance).keyReads = s.keyReads := rfl

/-! `deliver` -/

@[simp] theorem State.deliver_mt (s : State) (v : Word) : (s.deliver v).mt = s.mt := rfl
@[simp] theorem State.deliver_idx (s : State) (v : Word) : (s.deliver v).idx = s.idx := rfl
@[simp] theorem State.deliver_init (s : State) (v : Word) : (s.deliver v).init = s.init := rfl
@[simp] theorem State.deliver_fault (s : State) (v : Word) : (s.deliver v).fault = s.fault := rfl
@[simp] theorem State.deliver_cause (s : State) (v : Word) : (s.deliver v).cause = s.cause := rfl
@[simp] theorem State.deliver_res (s : State) (v : Word) : (s.deliver v).res = v := rfl
@[simp] theorem State.deliver_busy (s : State) (v : Word) : (s.deliver v).busy = s.busy := rfl
@[simp] theorem State.deliver_rst (s : State) (v : Word) : (s.deliver v).rst = s.rst := rfl
@[simp] theorem State.deliver_resValid (s : State) (v : Word) : (s.deliver v).resValid = true := rfl
@[simp] theorem State.deliver_keyMem (s : State) (v : Word) : (s.deliver v).keyMem = s.keyMem := rfl
@[simp] theorem State.deliver_host (s : State) (v : Word) : (s.deliver v).host = s.host := rfl
@[simp] theorem State.deliver_emitted (s : State) (v : Word) : (s.deliver v).emitted = s.emitted ++ [v] := rfl
@[simp] theorem State.deliver_keyReads (s : State) (v : Word) : (s.deliver v).keyReads = s.keyReads := rfl

/-! `setBusy` -/

@[simp] theorem State.setBusy_mt (s : State) (r : Option SeedaRun) : (s.setBusy r).mt = s.mt := rfl
@[simp] theorem State.setBusy_idx (s : State) (r : Option SeedaRun) : (s.setBusy r).idx = s.idx := rfl
@[simp] theorem State.setBusy_init (s : State) (r : Option SeedaRun) : (s.setBusy r).init = s.init := rfl
@[simp] theorem State.setBusy_fault (s : State) (r : Option SeedaRun) : (s.setBusy r).fault = s.fault := rfl
@[simp] theorem State.setBusy_cause (s : State) (r : Option SeedaRun) : (s.setBusy r).cause = s.cause := rfl
@[simp] theorem State.setBusy_res (s : State) (r : Option SeedaRun) : (s.setBusy r).res = s.res := rfl
@[simp] theorem State.setBusy_busy (s : State) (r : Option SeedaRun) : (s.setBusy r).busy = r := rfl
@[simp] theorem State.setBusy_rst (s : State) (r : Option SeedaRun) : (s.setBusy r).rst = s.rst := rfl
@[simp] theorem State.setBusy_resValid (s : State) (r : Option SeedaRun) : (s.setBusy r).resValid = s.resValid := rfl
@[simp] theorem State.setBusy_keyMem (s : State) (r : Option SeedaRun) : (s.setBusy r).keyMem = s.keyMem := rfl
@[simp] theorem State.setBusy_host (s : State) (r : Option SeedaRun) : (s.setBusy r).host = s.host := rfl
@[simp] theorem State.setBusy_emitted (s : State) (r : Option SeedaRun) : (s.setBusy r).emitted = s.emitted := rfl
@[simp] theorem State.setBusy_keyReads (s : State) (r : Option SeedaRun) : (s.setBusy r).keyReads = s.keyReads := rfl

/-! `logReads` -/

@[simp] theorem State.logReads_mt (s : State) (js : List Word) : (s.logReads js).mt = s.mt := rfl
@[simp] theorem State.logReads_idx (s : State) (js : List Word) : (s.logReads js).idx = s.idx := rfl
@[simp] theorem State.logReads_init (s : State) (js : List Word) : (s.logReads js).init = s.init := rfl
@[simp] theorem State.logReads_fault (s : State) (js : List Word) : (s.logReads js).fault = s.fault := rfl
@[simp] theorem State.logReads_cause (s : State) (js : List Word) : (s.logReads js).cause = s.cause := rfl
@[simp] theorem State.logReads_res (s : State) (js : List Word) : (s.logReads js).res = s.res := rfl
@[simp] theorem State.logReads_busy (s : State) (js : List Word) : (s.logReads js).busy = s.busy := rfl
@[simp] theorem State.logReads_rst (s : State) (js : List Word) : (s.logReads js).rst = s.rst := rfl
@[simp] theorem State.logReads_resValid (s : State) (js : List Word) : (s.logReads js).resValid = s.resValid := rfl
@[simp] theorem State.logReads_keyMem (s : State) (js : List Word) : (s.logReads js).keyMem = s.keyMem := rfl
@[simp] theorem State.logReads_host (s : State) (js : List Word) : (s.logReads js).host = s.host := rfl
@[simp] theorem State.logReads_emitted (s : State) (js : List Word) : (s.logReads js).emitted = s.emitted := rfl
@[simp] theorem State.logReads_keyReads (s : State) (js : List Word) : (s.logReads js).keyReads = s.keyReads ++ js := rfl

/-! `enterReset` -/

@[simp] theorem State.enterReset_mt (s : State) : (s.enterReset).mt = Vector.replicate 624 0 := rfl
@[simp] theorem State.enterReset_idx (s : State) : (s.enterReset).idx = 0 := rfl
@[simp] theorem State.enterReset_init (s : State) : (s.enterReset).init = false := rfl
@[simp] theorem State.enterReset_fault (s : State) : (s.enterReset).fault = false := rfl
@[simp] theorem State.enterReset_cause (s : State) : (s.enterReset).cause = .none := rfl
@[simp] theorem State.enterReset_res (s : State) : (s.enterReset).res = 0 := rfl
@[simp] theorem State.enterReset_busy (s : State) : (s.enterReset).busy = none := rfl
@[simp] theorem State.enterReset_rst (s : State) : (s.enterReset).rst = s.rst := rfl
@[simp] theorem State.enterReset_resValid (s : State) : (s.enterReset).resValid = false := rfl
@[simp] theorem State.enterReset_keyMem (s : State) : (s.enterReset).keyMem = s.keyMem := rfl
@[simp] theorem State.enterReset_host (s : State) : (s.enterReset).host = s.host := rfl
@[simp] theorem State.enterReset_emitted (s : State) : (s.enterReset).emitted = s.emitted := rfl
@[simp] theorem State.enterReset_keyReads (s : State) : (s.enterReset).keyReads = s.keyReads := rfl

/-! `beginEdge` -/

@[simp] theorem State.beginEdge_mt (s : State) (rest : List HostAction) : (s.beginEdge rest).mt = s.mt := rfl
@[simp] theorem State.beginEdge_idx (s : State) (rest : List HostAction) : (s.beginEdge rest).idx = s.idx := rfl
@[simp] theorem State.beginEdge_init (s : State) (rest : List HostAction) : (s.beginEdge rest).init = s.init := rfl
@[simp] theorem State.beginEdge_fault (s : State) (rest : List HostAction) : (s.beginEdge rest).fault = s.fault := rfl
@[simp] theorem State.beginEdge_cause (s : State) (rest : List HostAction) : (s.beginEdge rest).cause = s.cause := rfl
@[simp] theorem State.beginEdge_res (s : State) (rest : List HostAction) : (s.beginEdge rest).res = s.res := rfl
@[simp] theorem State.beginEdge_busy (s : State) (rest : List HostAction) : (s.beginEdge rest).busy = s.busy := rfl
@[simp] theorem State.beginEdge_rst (s : State) (rest : List HostAction) : (s.beginEdge rest).rst = s.rst := rfl
@[simp] theorem State.beginEdge_resValid (s : State) (rest : List HostAction) : (s.beginEdge rest).resValid = false := rfl
@[simp] theorem State.beginEdge_keyMem (s : State) (rest : List HostAction) : (s.beginEdge rest).keyMem = s.keyMem := rfl
@[simp] theorem State.beginEdge_host (s : State) (rest : List HostAction) : (s.beginEdge rest).host = rest := rfl
@[simp] theorem State.beginEdge_emitted (s : State) (rest : List HostAction) : (s.beginEdge rest).emitted = s.emitted := rfl
@[simp] theorem State.beginEdge_keyReads (s : State) (rest : List HostAction) : (s.beginEdge rest).keyReads = s.keyReads := rfl

/-! `writeKey` -/

@[simp] theorem State.writeKey_mt (s : State) (j w : Word) : (s.writeKey j w).mt = s.mt := rfl
@[simp] theorem State.writeKey_idx (s : State) (j w : Word) : (s.writeKey j w).idx = s.idx := rfl
@[simp] theorem State.writeKey_init (s : State) (j w : Word) : (s.writeKey j w).init = s.init := rfl
@[simp] theorem State.writeKey_fault (s : State) (j w : Word) : (s.writeKey j w).fault = s.fault := rfl
@[simp] theorem State.writeKey_cause (s : State) (j w : Word) : (s.writeKey j w).cause = s.cause := rfl
@[simp] theorem State.writeKey_res (s : State) (j w : Word) : (s.writeKey j w).res = s.res := rfl
@[simp] theorem State.writeKey_busy (s : State) (j w : Word) : (s.writeKey j w).busy = s.busy := rfl
@[simp] theorem State.writeKey_rst (s : State) (j w : Word) : (s.writeKey j w).rst = s.rst := rfl
@[simp] theorem State.writeKey_resValid (s : State) (j w : Word) : (s.writeKey j w).resValid = s.resValid := rfl
@[simp] theorem State.writeKey_keyMem (s : State) (j w : Word) : (s.writeKey j w).keyMem = KeyMem.write s.keyMem j.toNat w := rfl
@[simp] theorem State.writeKey_host (s : State) (j w : Word) : (s.writeKey j w).host = s.host := rfl
@[simp] theorem State.writeKey_emitted (s : State) (j w : Word) : (s.writeKey j w).emitted = s.emitted := rfl
@[simp] theorem State.writeKey_keyReads (s : State) (j w : Word) : (s.writeKey j w).keyReads = s.keyReads := rfl

/-! `driveRst` -/

@[simp] theorem State.driveRst_mt (s : State) (b : Bool) : (s.driveRst b).mt = s.mt := rfl
@[simp] theorem State.driveRst_idx (s : State) (b : Bool) : (s.driveRst b).idx = s.idx := rfl
@[simp] theorem State.driveRst_init (s : State) (b : Bool) : (s.driveRst b).init = s.init := rfl
@[simp] theorem State.driveRst_fault (s : State) (b : Bool) : (s.driveRst b).fault = s.fault := rfl
@[simp] theorem State.driveRst_cause (s : State) (b : Bool) : (s.driveRst b).cause = s.cause := rfl
@[simp] theorem State.driveRst_res (s : State) (b : Bool) : (s.driveRst b).res = s.res := rfl
@[simp] theorem State.driveRst_busy (s : State) (b : Bool) : (s.driveRst b).busy = s.busy := rfl
@[simp] theorem State.driveRst_rst (s : State) (b : Bool) : (s.driveRst b).rst = b := rfl
@[simp] theorem State.driveRst_resValid (s : State) (b : Bool) : (s.driveRst b).resValid = s.resValid := rfl
@[simp] theorem State.driveRst_keyMem (s : State) (b : Bool) : (s.driveRst b).keyMem = s.keyMem := rfl
@[simp] theorem State.driveRst_host (s : State) (b : Bool) : (s.driveRst b).host = s.host := rfl
@[simp] theorem State.driveRst_emitted (s : State) (b : Bool) : (s.driveRst b).emitted = s.emitted := rfl
@[simp] theorem State.driveRst_keyReads (s : State) (b : Bool) : (s.driveRst b).keyReads = s.keyReads := rfl

/-! `presentNext` -/

@[simp] theorem State.presentNext_mt (s : State) (cw : CmdWord) : (s.presentNext cw).mt = s.mt := rfl
@[simp] theorem State.presentNext_idx (s : State) (cw : CmdWord) : (s.presentNext cw).idx = s.idx := rfl
@[simp] theorem State.presentNext_init (s : State) (cw : CmdWord) : (s.presentNext cw).init = s.init := rfl
@[simp] theorem State.presentNext_fault (s : State) (cw : CmdWord) : (s.presentNext cw).fault = s.fault := rfl
@[simp] theorem State.presentNext_cause (s : State) (cw : CmdWord) : (s.presentNext cw).cause = s.cause := rfl
@[simp] theorem State.presentNext_res (s : State) (cw : CmdWord) : (s.presentNext cw).res = s.res := rfl
@[simp] theorem State.presentNext_busy (s : State) (cw : CmdWord) : (s.presentNext cw).busy = s.busy := rfl
@[simp] theorem State.presentNext_rst (s : State) (cw : CmdWord) : (s.presentNext cw).rst = s.rst := rfl
@[simp] theorem State.presentNext_resValid (s : State) (cw : CmdWord) : (s.presentNext cw).resValid = s.resValid := rfl
@[simp] theorem State.presentNext_keyMem (s : State) (cw : CmdWord) : (s.presentNext cw).keyMem = s.keyMem := rfl
@[simp] theorem State.presentNext_host (s : State) (cw : CmdWord) : (s.presentNext cw).host = .present cw :: s.host := rfl
@[simp] theorem State.presentNext_emitted (s : State) (cw : CmdWord) : (s.presentNext cw).emitted = s.emitted := rfl
@[simp] theorem State.presentNext_keyReads (s : State) (cw : CmdWord) : (s.presentNext cw).keyReads = s.keyReads := rfl

end Sys2Proof.Machine
end

