-- ==== Sys2Proof/Laws/Generator.lean ====
section
/-! SUPPORT. The Generator Core: a loop that writes each position once, ascending; and what NEXT can do. -/

namespace Sys2Proof.Machine

/-- A sweep (each counter value writes its own position) leaves the positions outside its range alone. -/
theorem sweep_get_outside (f : Nat → RegFile → Word) (count first : Nat) (m : RegFile) (j : Nat) (hj : j < 624)
    (h : j < first ∨ first + count ≤ j) :
    RegFile.get (forUp (fun k m => RegFile.set m k (f k m)) count first m) j = RegFile.get m j := by
  refine forUp_induct _ (fun _ m' => RegFile.get m' j = RegFile.get m j) count first m rfl ?_
  intro k m' h1 h2 ih
  rw [RegFile.get_set_other _ _ _ _ hj (by omega), ih]

/-- A sweep writes each position of its range once, with the word computed when its turn comes. -/
theorem sweep_get_inside (f : Nat → RegFile → Word) (count first : Nat) (m : RegFile) (j : Nat) (hj : j < 624)
    (h1 : first ≤ j) (h2 : j < first + count) :
    RegFile.get (forUp (fun k m => RegFile.set m k (f k m)) count first m) j =
      f j (forUp (fun k m => RegFile.set m k (f k m)) (j - first) first m) := by
  obtain ⟨r, rfl⟩ : ∃ r, count = (j - first) + (r + 1) := ⟨count - (j - first) - 1, by omega⟩
  rw [forUp_add, forUp_succ, sweep_get_outside f _ _ _ _ hj (by omega), show first + (j - first) = j by omega,
    RegFile.get_set_self _ _ _ hj]

/-- A draw (R133, R136). -/
theorem State.draw_eq (s : State) :
    s.draw = { s with idx := s.idx + 1, res := temper (RegFile.get s.mt s.idx.toNat), resValid := true,
                      emitted := s.emitted ++ [temper (RegFile.get s.mt s.idx.toNat)] } := rfl

theorem State.twistIfDue_pending (s : State) (h : s.idx.toNat < 624) : s.twistIfDue = s := by
  simp [State.twistIfDue, State.exhausted, h]

theorem State.twistIfDue_exhausted (s : State) (h : 624 ≤ s.idx.toNat) :
    s.twistIfDue = s.regenerated (twist s.mt) := by
  simp [State.twistIfDue, State.exhausted, h]

/-- After the twist, if it was due, the position is one to draw from (R133). -/
theorem State.twistIfDue_idx_lt (s : State) : s.twistIfDue.idx.toNat < 624 := by
  by_cases h : s.idx.toNat < 624
  · rwa [s.twistIfDue_pending h]
  · rw [s.twistIfDue_exhausted (by omega)]; simp

/-- Everything NEXT can do (R130, R172). -/
theorem execNext_cases (s : State) :
    (s.init = false ∧ execNext s = .next (s.raise .notInitialised)) ∨
      (s.init = true ∧ s.idx.toNat < 624 ∧ execNext s = .next s.draw) ∨
      (s.init = true ∧ 624 ≤ s.idx.toNat ∧ execNext s = .next (s.regenerated (twist s.mt)).draw) := by
  cases hi : s.init with
  | false => exact .inl ⟨rfl, by simp [execNext, hi]⟩
  | true =>
    by_cases h : s.idx.toNat < 624
    · exact .inr (.inl ⟨rfl, h, by simp [execNext, hi, s.twistIfDue_pending h]⟩)
    · have h : 624 ≤ s.idx.toNat := by omega
      exact .inr (.inr ⟨rfl, h, by simp [execNext, hi, s.twistIfDue_exhausted h]⟩)

end Sys2Proof.Machine
end

