-- ==== Sys2Proof/Laws/Reads.lean ====
section
/-! SUPPORT. The key reads of a `SEEDA` (20_memory.md R52): how many are answered, which words they return, where they
stop, and that stopping and going on later returns the same words. -/

namespace Sys2Proof.Machine

theorem readKeys_length_le (keys : KeyMem) (len count n : Nat) : (readKeys keys len count n).length ≤ count := by
  induction count generalizing n with
  | zero => simp [readKeys]
  | succ c ih =>
    simp only [readKeys]
    split
    · simpa using ih (n + 1)
    · simp

/-- With every index below `L` answered, all the reads are answered, in the order of R52. -/
theorem readKeys_answered (keys : KeyMem) (len count n : Nat) (hl : 0 < len)
    (h : ∀ j, j < len → (KeyMem.read keys j).isSome = true) :
    readKeys keys len count n = (List.range' n count).map fun k => (KeyMem.read keys (k % len)).getD 0 := by
  induction count generalizing n with
  | zero => rfl
  | succ c ih =>
    obtain ⟨w, hw⟩ := Option.isSome_iff_exists.mp (h _ (Nat.mod_lt n hl))
    simp only [readKeys, hw, List.range'_succ, List.map_cons, Option.getD_some, ih]

/-- Where the reads stop short, the next one is not answered. -/
theorem readKeys_stop (keys : KeyMem) (len count n : Nat) (h : (readKeys keys len count n).length < count) :
    KeyMem.read keys ((n + (readKeys keys len count n).length) % len) = none := by
  induction count generalizing n with
  | zero => simp [readKeys] at h
  | succ c ih =>
    simp only [readKeys] at h ⊢
    cases hr : KeyMem.read keys (n % len) with
    | none => simpa using hr
    | some w =>
      simp only [hr, List.length_cons] at h ⊢
      have := ih (n + 1) (by omega)
      rwa [Nat.add_assoc, Nat.add_comm 1] at this

/-- The indices of consecutive runs of reads. -/
theorem readIndices_add (len a b n : Nat) :
    readIndices len (a + b) n = readIndices len a n ++ readIndices len b (n + a) := by
  induction a generalizing n with
  | zero => simp [readIndices]
  | succ a ih =>
    rw [show a + 1 + b = (a + b) + 1 by omega]
    simp only [readIndices, ih, List.cons_append]
    rw [show n + 1 + a = n + (a + 1) by omega]

theorem readIndices_eq_map (len count n : Nat) :
    readIndices len count n = (List.range' n count).map fun k => zext32 (k % len) := by
  induction count generalizing n with
  | zero => rfl
  | succ c ih => simp only [readIndices, List.range'_succ, List.map_cons, ih]

/-- Reads made with fewer indices answered, then gone on with when more are, return what reading later would have. -/
theorem readKeys_resume (keys keys' : KeyMem) (len count n : Nat)
    (h : ∀ j w, KeyMem.read keys j = some w → KeyMem.read keys' j = some w) :
    readKeys keys' len count n = readKeys keys len count n ++
      readKeys keys' len (count - (readKeys keys len count n).length) (n + (readKeys keys len count n).length) := by
  induction count generalizing n with
  | zero => simp [readKeys]
  | succ c ih =>
    cases hr : KeyMem.read keys (n % len) with
    | none => simp [readKeys, hr]
    | some w =>
      simp only [readKeys, hr, h _ _ hr, List.length_cons, List.cons_append]
      rw [ih (n + 1), Nat.add_sub_add_right,
        show n + 1 + (readKeys keys len c (n + 1)).length = n + ((readKeys keys len c (n + 1)).length + 1) by omega]

/-- Only the answers below `L` matter. -/
theorem readKeys_congr (keys keys' : KeyMem) (len count n : Nat) (hl : 0 < len)
    (h : ∀ j, j < len → KeyMem.read keys j = KeyMem.read keys' j) :
    readKeys keys len count n = readKeys keys' len count n := by
  induction count generalizing n with
  | zero => rfl
  | succ c ih => simp only [readKeys, h _ (Nat.mod_lt n hl), ih]

end Sys2Proof.Machine
end

