-- ==== Sys2Proof/Laws/Initializer.lean ====
section
/-! SUPPORT. The State Initializer: what one iteration does to each register, and what running a `SEEDA` does. -/

namespace Sys2Proof.Machine

/-- One iteration of the scalar recurrence (R100). -/
theorem seedStep_get (i j : Nat) (m : RegFile) (hj : j < 624) :
    RegFile.get (seedStep i m) j =
      if i = j then Config.initMult * mixShift (RegFile.get m (i - 1)) + zext32 i else RegFile.get m j :=
  RegFile.get_set m i j _ hj

/-- The position after a write of the walk (R117): 1, 2, ..., 623, 1, ... -/
theorem walkWrite_i (w : Walk) (v : Word) : (walkWrite w v).i = if w.i + 1 ≥ 624 then 1 else w.i + 1 := by
  unfold walkWrite; split_ifs <;> rfl

/-- The registers after a write of the walk (R113, R114): the word at the position, the wrap's copy in `MT[0]`, the rest
as it was. -/
theorem walkWrite_get (w : Walk) (v : Word) (q : Nat) (hq : q < 624) (h1 : 1 ≤ w.i) (h2 : w.i < 624) :
    RegFile.get (walkWrite w v).mt q =
      if q = w.i then v else if q = 0 ∧ w.i = 623 then v else RegFile.get w.mt q := by
  unfold walkWrite
  by_cases hw : w.i + 1 ≥ 624
  · have : w.i = 623 := by omega
    simp only [hw, if_true]
    rw [RegFile.get_set _ _ _ _ hq, RegFile.get_set _ _ _ _ (by omega), RegFile.get_set _ _ _ _ hq]
    by_cases h0 : q = 0 <;> by_cases h3 : q = 623 <;> simp_all [eq_comm]
  · simp only [hw, if_false]
    rw [RegFile.get_set _ _ _ _ hq]
    by_cases h3 : q = w.i
    · simp [h3]
    · have h4 : w.i ≠ 623 := by omega
      simp [h3, h4, Ne.symm h3]

/-- Everything running a `SEEDA` can do: complete, or wait with the architectural tuple as it was. -/
theorem State.runSeeda_cases (s : State) (run : SeedaRun) :
    let got := readKeys s.keyMem run.len.toNat (run.total - run.words.length) run.words.length
    let log := readIndices run.len.toNat got.length run.words.length
    (run.total ≤ (run.words ++ got).length ∧ s.runSeeda run =
        ((s.logReads log).setBusy none).seeded (arrayFill run.len.toNat (run.words ++ got) s.mt)) ∨
      ((run.words ++ got).length < run.total ∧ s.runSeeda run =
        (s.logReads log).setBusy (some ⟨run.len, run.words ++ got⟩)) := by
  intro got log
  by_cases h : (run.words ++ got).length < run.total
  · right; exact ⟨h, by unfold State.runSeeda; exact if_pos h⟩
  · left; exact ⟨by omega, by unfold State.runSeeda; exact if_neg h⟩

/-- With every key index below `L` answered, `SEEDA` completes on the key words in the order of R52. -/
theorem State.runSeeda_complete (s : State) (len : Word) (hl : len ≠ 0)
    (h : ∀ j, j < len.toNat → (KeyMem.read s.keyMem j).isSome = true) :
    s.runSeeda ⟨len, []⟩ =
      ((s.logReads (readIndices len.toNat (max 624 len.toNat) 0)).setBusy none).seeded
        (arrayFill len.toNat
          ((List.range (max 624 len.toNat)).map fun n => (KeyMem.read s.keyMem (n % len.toNat)).getD 0) s.mt) := by
  have hpos : 0 < len.toNat := by
    rcases Nat.eq_zero_or_pos len.toNat with h0 | h0
    · exact absurd (BitVec.eq_of_toNat_eq (by simpa using h0)) hl
    · exact h0
  have hk := readKeys_answered s.keyMem len.toNat (max 624 len.toNat) 0 hpos h
  rw [← List.range_eq_range'] at hk
  rcases s.runSeeda_cases ⟨len, []⟩ with ⟨-, h2⟩ | ⟨h1, -⟩
  · rw [h2]
    simp only [SeedaRun.total, List.length_nil, Nat.sub_zero, List.nil_append, hk, List.length_map, List.length_range]
  · simp [SeedaRun.total, hk] at h1

/-- What running a `SEEDA` leaves alone, whether it completes or waits. -/
theorem State.runSeeda_frame (s : State) (run : SeedaRun) :
    (s.runSeeda run).fault = s.fault ∧ (s.runSeeda run).cause = s.cause ∧ (s.runSeeda run).res = s.res ∧
      (s.runSeeda run).rst = s.rst ∧ (s.runSeeda run).resValid = s.resValid ∧
      (s.runSeeda run).keyMem = s.keyMem ∧ (s.runSeeda run).host = s.host ∧
      (s.runSeeda run).emitted = s.emitted := by
  rcases s.runSeeda_cases run with ⟨-, h⟩ | ⟨-, h⟩ <;> rw [h] <;> simp

/-- Running a `SEEDA` with nothing more answered changes nothing. -/
theorem State.runSeeda_still (s : State) (run : SeedaRun) (hb : s.busy = some run)
    (hw : run.words.length < run.total) (hk : KeyMem.read s.keyMem run.nextIndex = none) : s.runSeeda run = s := by
  obtain ⟨c, hc⟩ : ∃ c, run.total - run.words.length = c + 1 := ⟨_, (Nat.succ_pred_eq_of_pos (by omega)).symm⟩
  have hg : readKeys s.keyMem run.len.toNat (run.total - run.words.length) run.words.length = [] := by
    rw [hc]; simp only [readKeys]; rw [show KeyMem.read s.keyMem (run.words.length % run.len.toNat) = none from hk]
  unfold State.runSeeda
  simp only [hg, List.append_nil, hw, if_true]
  cases s; cases run; simp_all [State.logReads, State.setBusy, readIndices]

/-- A `SEEDA` that waits is gone on with from where it stopped (R78): if the host then answers more reads and changes no
answer, the outcome is that of running it with those answers from the start. -/
theorem State.runSeeda_resume (s : State) (run : SeedaRun) (keys' : KeyMem)
    (h : ∀ j w, KeyMem.read s.keyMem j = some w → KeyMem.read keys' j = some w) :
    match (s.runSeeda run).busy with
    | some run' => State.runSeeda { s.runSeeda run with keyMem := keys' } run' = State.runSeeda { s with keyMem := keys' } run
    | none => { s.runSeeda run with keyMem := keys' } = State.runSeeda { s with keyMem := keys' } run := by
  have hr := readKeys_resume s.keyMem keys' run.len.toNat (run.total - run.words.length) run.words.length h
  have hle := readKeys_length_le s.keyMem run.len.toNat (run.total - run.words.length) run.words.length
  rcases s.runSeeda_cases run with ⟨h1, h2⟩ | ⟨h1, h2⟩
  · simp only [h2, State.seeded_busy, State.setBusy_busy]
    rw [List.length_append] at h1
    have hz : run.total - run.words.length -
        (readKeys s.keyMem run.len.toNat (run.total - run.words.length) run.words.length).length = 0 := by omega
    rw [hz] at hr
    simp only [readKeys, List.append_nil] at hr
    unfold State.runSeeda
    simp only [hr]
    rw [if_neg (by rw [List.length_append]; omega)]
    rfl
  · simp only [h2, State.setBusy_busy]
    rw [List.length_append] at h1
    generalize readKeys s.keyMem run.len.toNat (run.total - run.words.length) run.words.length = got at hr hle h1 h2 ⊢
    unfold State.runSeeda
    simp only [SeedaRun.total, List.length_append, State.setBusy_keyReads, State.logReads] at hr ⊢
    rw [hr, Nat.sub_add_eq]
    simp only [List.length_append, List.append_assoc, readIndices_add, State.setBusy]
    split_ifs <;> first | omega | simp [State.seeded]

end Sys2Proof.Machine
end

