-- ==== Sys2Proof/Laws/Exec.lean ====
section
/-! SUPPORT. What each command answers, as one equation per case. Proofs cite these and the field lemmas of
Laws/State.lean; closing a goal about a filled register file by rfl can make Lean unroll 623 iterations. -/

namespace Sys2Proof.Machine

theorem exec_seeds (seed : Word) (s : State) : exec (.seeds seed) s = .next (s.seeded (seedFill seed s.mt)) := rfl

theorem exec_seeda_zero (s : State) : exec (.seeda 0) s = .next (s.raise .zeroLengthKey) := rfl

theorem exec_seeda (len : Word) (s : State) (h : len ≠ 0) :
    exec (.seeda len) s = .next (s.runSeeda ⟨len, []⟩) := by
  simp only [exec, execSeeda, if_neg h]

theorem exec_next_unseeded (s : State) (h : s.init = false) : exec .next s = .next (s.raise .notInitialised) := by
  simp only [exec, execNext, if_pos h]

theorem exec_next_pending (s : State) (h : s.init = true) (hi : s.idx.toNat < 624) : exec .next s = .next s.draw := by
  rcases execNext_cases s with ⟨h', -⟩ | ⟨-, -, h'⟩ | ⟨-, h'', -⟩
  · simp [h] at h'
  · exact h'
  · omega

theorem exec_next_exhausted (s : State) (h : s.init = true) (hi : 624 ≤ s.idx.toNat) :
    exec .next s = .next (s.regenerated (twist s.mt)).draw := by
  rcases execNext_cases s with ⟨h', -⟩ | ⟨-, h'', -⟩ | ⟨-, -, h'⟩
  · simp [h] at h'
  · omega
  · exact h'

end Sys2Proof.Machine
end

