-- ==== Sys2Proof/Laws/KeyMem.lean ====
section
/-! SUPPORT. Key memory: a read after a write, and the canonical form. -/

namespace Sys2Proof.Machine

/-- A read after a write (20_memory.md R51): the word written at its own index, the old answer elsewhere. -/
theorem KeyMem.read_write (m : KeyMem) (j k : Nat) (w : Word) :
    KeyMem.read (KeyMem.write m j w) k = if j = k then some w else KeyMem.read m k := by
  induction m with
  | nil => rfl
  | cons c rest ih =>
    obtain ⟨a, v⟩ := c
    unfold KeyMem.write
    by_cases h1 : j < a
    · simp only [h1, if_true, KeyMem.read]
    · by_cases h2 : j = a
      · subst h2; simp only [h1, if_true, if_false, KeyMem.read]; split_ifs <;> rfl
      · simp only [h1, h2, if_false, KeyMem.read, ih]
        by_cases h3 : a = k
        · have : j ≠ k := by omega
          simp [h3, this]
        · simp [h3]

theorem KeyMem.mem_write (m : KeyMem) (j : Nat) (w : Word) (p : Nat × Word) (h : p ∈ KeyMem.write m j w) :
    p = (j, w) ∨ p ∈ m := by
  induction m with
  | nil => simpa [KeyMem.write] using h
  | cons c rest ih =>
    obtain ⟨a, v⟩ := c
    simp only [KeyMem.write] at h
    split_ifs at h with h1 h2
    · simpa using h
    · rcases List.mem_cons.mp h with h | h
      · exact .inl h
      · exact .inr (List.mem_cons_of_mem _ h)
    · rcases List.mem_cons.mp h with h | h
      · exact .inr (by simp [h])
      · rcases ih h with h | h
        · exact .inl h
        · exact .inr (List.mem_cons_of_mem _ h)

/-- A write keeps the canonical form. -/
theorem KeyMem.write_wf (m : KeyMem) (j : Nat) (w : Word) (hj : j < 2 ^ 32) (h : KeyMem.wf m) :
    KeyMem.wf (KeyMem.write m j w) := by
  refine ⟨?_, fun p hp => ?_⟩
  · induction m with
    | nil => simp [KeyMem.write]
    | cons c rest ih =>
      obtain ⟨a, v⟩ := c
      obtain ⟨h1, h2⟩ := h
      have hr := List.pairwise_cons.mp h1
      have ih := ih ⟨hr.2, fun p hp => h2 p (List.mem_cons_of_mem _ hp)⟩
      simp only [KeyMem.write]
      split_ifs with hlt heq
      · refine List.pairwise_cons.mpr ⟨fun p hp => ?_, h1⟩
        rcases List.mem_cons.mp hp with hp | hp
        · simp [hp, hlt]
        · exact lt_trans hlt (hr.1 p hp)
      · subst heq; exact List.pairwise_cons.mpr ⟨fun p hp => hr.1 p hp, hr.2⟩
      · refine List.pairwise_cons.mpr ⟨fun p hp => ?_, ih⟩
        rcases KeyMem.mem_write rest j w p hp with hp | hp
        · simp only [hp]; omega
        · exact hr.1 p hp
  · rcases KeyMem.mem_write m j w p hp with hp | hp
    · simpa [hp] using hj
    · exact h.2 p hp

/-- The state's key memory keeps its canonical form when the host writes a word. -/
theorem State.writeKey_wf (s : State) (j w : Word) (h : KeyMem.wf s.keyMem) : KeyMem.wf (s.writeKey j w).keyMem :=
  KeyMem.write_wf _ _ _ j.isLt h

end Sys2Proof.Machine
end

