-- ==== Sys2Proof/Laws/PerInstr.lean ====
section
/-! SUPPORT. Per-command lemmas. Family `Fields` (30_encoding.md R71, R72): the word of a command holds its opcode in
bits 33:32 and its operand in bits 31:0. -/

namespace Sys2Proof.Laws.Fields

/-- The opcode of R72. -/
def opcode : Instr → BitVec 2
  | .seeds _ => 0b01
  | .seeda _ => 0b10
  | .next => 0b11

/-- The operand of R73. -/
def operand : Instr → Word
  | .seeds seed => seed
  | .seeda len => len
  | .next => 0

/-- The encoder puts both fields where R71 puts them. -/
def Statement (i : Instr) : Prop :=
  (encode i).toNat = (opcode i).toNat * 2 ^ 32 + (operand i).toNat

theorem joinFields_toNat (op : BitVec 2) (arg : Word) :
    (joinFields op arg).toNat = op.toNat * 2 ^ 32 + arg.toNat := by
  simp only [joinFields, BitVec.toNat_append]
  rw [Nat.shiftLeft_eq, Nat.mul_comm, Nat.two_pow_add_eq_or_of_lt arg.isLt]

theorem seeds (seed : Word) : Statement (.seeds seed) := joinFields_toNat _ _

theorem seeda (len : Word) : Statement (.seeda len) := joinFields_toNat _ _

theorem next : Statement .next := joinFields_toNat _ _

/-- `op` of a joined word (R71). -/
theorem opField_joinFields (op : BitVec 2) (arg : Word) : opField (joinFields op arg) = op := by
  apply BitVec.eq_of_toNat_eq
  simp only [opField, BitVec.extractLsb'_toNat, joinFields_toNat, Nat.shiftRight_eq_div_pow]
  have := arg.isLt; have := op.isLt
  omega

/-- `arg` of a joined word (R71). -/
theorem argField_joinFields (op : BitVec 2) (arg : Word) : argField (joinFields op arg) = arg := by
  apply BitVec.eq_of_toNat_eq
  simp only [argField, BitVec.extractLsb'_toNat, joinFields_toNat, Nat.shiftRight_eq_div_pow]
  have := arg.isLt; have := op.isLt
  omega

/-- The two fields are all of a command word (R71). -/
theorem joinFields_fields (cw : CmdWord) : joinFields (opField cw) (argField cw) = cw := by
  apply BitVec.eq_of_toNat_eq
  rw [joinFields_toNat]
  simp only [opField, argField, BitVec.extractLsb'_toNat, Nat.shiftRight_eq_div_pow]
  have := cw.isLt
  omega

end Sys2Proof.Laws.Fields
end

