-- ==== Sys2Proof/Laws/Step.lean ====
section
/-! SUPPORT. The step: what each host action does, and everything a step can do. -/

namespace Sys2Proof.Machine

/-- Everything an edge without an accepted command does (R78, R200). -/
theorem State.hold_cases (s : State) :
    (s.rst = true ∧ s.hold = s.enterReset) ∨
      (s.rst = false ∧ ∃ run, s.busy = some run ∧ s.hold = s.runSeeda run) ∨
      (s.rst = false ∧ s.busy = none ∧ s.hold = s) := by
  cases hr : s.rst with
  | true => exact .inl ⟨rfl, by simp [State.hold, hr]⟩
  | false =>
    cases hb : s.busy with
    | some run => exact .inr (.inl ⟨rfl, run, rfl, by simp [State.hold, hr, hb]⟩)
    | none => exact .inr (.inr ⟨rfl, rfl, by simp [State.hold, hr, hb]⟩)

theorem State.cmdReady_iff (s : State) :
    s.cmdReady = true ↔ s.rst = false ∧ s.busy = none ∧ s.fault = false := by
  simp [State.cmdReady, and_assoc]

theorem State.beginEdge_cmdReady (s : State) (rest : List HostAction) : (s.beginEdge rest).cmdReady = s.cmdReady := rfl

/-- A step is the edge at which the host's action is performed. -/
theorem step_eq_edge (s : State) (a : HostAction) (rest : List HostAction) (h : s.Performs a rest) :
    step s = edge a (s.beginEdge rest) := by
  rcases h with h | ⟨h, rfl, rfl⟩ <;> simp [step, nextEdge, h]

theorem State.performs_exists (s : State) : ∃ a rest, s.Performs a rest := by
  cases h : s.host with
  | nil => exact ⟨.idle, [], .inr ⟨h, rfl, rfl⟩⟩
  | cons a rest => exact ⟨a, rest, .inl h⟩

/-- Every command answers a next state, in every state (60_exceptions.md R174, R176). -/
theorem exec_next (i : Instr) (s : State) : ∃ t, exec i s = .next t := by
  cases i with
  | seeds seed => exact ⟨_, rfl⟩
  | seeda len => simp only [exec, execSeeda]; split <;> exact ⟨_, rfl⟩
  | next => simp only [exec, execNext]; split <;> exact ⟨_, rfl⟩

/-- Everything a step that answers a next state can have done. -/
theorem step_cases (s t : State) (h : step s = .next t) :
    ∃ a rest, s.Performs a rest ∧
      ((∃ cw i, a = .present cw ∧ s.cmdReady = true ∧ decode cw = .command i ∧
          exec i (s.beginEdge rest) = .next t) ∨
        (∃ cw why, a = .present cw ∧ s.cmdReady = true ∧ decode cw = .illegal why ∧
          t = (s.beginEdge rest).raise .illegalCommand) ∨
        (((a = .idle) ∨ (s.cmdReady = false ∧ ((∃ cw, a = .present cw) ∨ ∃ cw1 cw2, a = .contend cw1 cw2))) ∧
          t = (s.beginEdge rest).hold) ∨
        (∃ j w, a = .setKey j w ∧ t = ((s.beginEdge rest).writeKey j w).hold) ∨
        (∃ level, a = .setRst level ∧ t = (s.beginEdge rest).applyRst level)) := by
  obtain ⟨a, rest, ha⟩ := s.performs_exists
  rw [step_eq_edge s a rest ha] at h
  refine ⟨a, rest, ha, ?_⟩
  cases a with
  | idle => simp only [edge, Host.Outcome.next.injEq] at h; exact .inr (.inr (.inl ⟨.inl rfl, h.symm⟩))
  | present cw =>
    simp only [edge, State.beginEdge_cmdReady] at h
    cases hr : s.cmdReady with
    | true =>
      simp only [hr, if_true, accept] at h
      cases hd : decode cw with
      | command i => rw [hd] at h; exact .inl ⟨cw, i, rfl, rfl, hd, h⟩
      | illegal why =>
        simp only [hd, Host.Outcome.next.injEq] at h
        exact .inr (.inl ⟨cw, why, rfl, rfl, hd, h.symm⟩)
    | false =>
      simp only [hr, Bool.false_eq_true, if_false, Host.Outcome.next.injEq] at h
      exact .inr (.inr (.inl ⟨.inr ⟨rfl, .inl ⟨cw, rfl⟩⟩, h.symm⟩))
  | setKey j w =>
    simp only [edge, Host.Outcome.next.injEq] at h
    exact .inr (.inr (.inr (.inl ⟨j, w, rfl, h.symm⟩)))
  | setRst level =>
    simp only [edge, Host.Outcome.next.injEq] at h
    exact .inr (.inr (.inr (.inr ⟨level, rfl, h.symm⟩)))
  | contend cw1 cw2 =>
    simp only [edge, State.beginEdge_cmdReady] at h
    cases hr : s.cmdReady with
    | true => simp [hr] at h
    | false =>
      simp only [hr, Bool.false_eq_true, if_false, Host.Outcome.next.injEq] at h
      exact .inr (.inr (.inl ⟨.inr ⟨rfl, .inr ⟨cw1, cw2, rfl⟩⟩, h.symm⟩))
  | losePower => simp [edge] at h

/-- What driving `rst` does (R200): to 1, reset; to 0 after a reset, the reset state with `cmd_ready` free to rise; to 0
when it was 0, an edge like any other. -/
theorem State.applyRst_cases (s : State) (level : Bool) :
    (level = true ∧ s.applyRst level = (s.driveRst true).enterReset) ∨
      (level = false ∧ s.rst = true ∧ s.applyRst level = s.enterReset.driveRst false) ∨
      (level = false ∧ s.rst = false ∧ s.applyRst level = s.hold) := by
  cases level <;> cases hr : s.rst
  · refine .inr (.inr ⟨rfl, rfl, ?_⟩)
    have : s.driveRst false = s := by cases s; simp_all [State.driveRst]
    simp [State.applyRst, hr, this]
  · exact .inr (.inl ⟨rfl, rfl, by simp [State.applyRst, State.hold, hr]⟩)
  · exact .inl ⟨rfl, by simp [State.applyRst, State.hold, hr]⟩
  · refine .inl ⟨rfl, ?_⟩
    simp [State.applyRst, State.hold, hr]
    rfl

end Sys2Proof.Machine
end

