-- ==== Sys2Proof/Laws/Run.lean ====
section
/-! SUPPORT. Runs of several steps: the first step taken off, and a last step put on. -/

namespace Sys2Proof.Machine

/-- A run of `n + 1` steps whose first answers a next state. -/
theorem run_first (n : Nat) (s t : State) (h : step s = .next t) :
    Sys2Proof.core.run (n + 1) s = Sys2Proof.core.run n t := by
  have h' : Sys2Proof.core.step s = .next t := h
  simp only [Host.Core.run]
  rw [h']

/-- A run of `n` steps that answers a next state, and one step more. -/
theorem run_last (n : Nat) (s t : State) (h : Sys2Proof.core.run n s = .next t) :
    Sys2Proof.core.run (n + 1) s = step t := by
  induction n generalizing s with
  | zero =>
    have hst : s = t := Host.Outcome.next.inj h
    subst hst
    simp only [Host.Core.run]
    generalize ho : Sys2Proof.core.step s = o
    have ho : step s = o := ho
    rw [ho]
    cases o <;> rfl
  | succ n ih =>
    cases hs : step s with
    | next u => rw [run_first _ _ _ hs] at h ⊢; exact ih u h
    | fault f =>
      have hs : Sys2Proof.core.step s = .fault f := hs
      simp only [Host.Core.run] at h
      rw [hs] at h
      exact Host.Outcome.noConfusion rfl rfl rfl (heq_of_eq h)
    | refused r =>
      have hs : Sys2Proof.core.step s = .refused r := hs
      simp only [Host.Core.run] at h
      rw [hs] at h
      exact Host.Outcome.noConfusion rfl rfl rfl (heq_of_eq h)

end Sys2Proof.Machine
end

