-- ==== Sys2Proof/Machine/Text.lean ====
section
/-! DEFINITION. The text of a program's lines (30_encoding.md R81, R82): from the characters of one line to the line it
writes. -/

namespace Sys2Proof.Machine

/-- The pieces a line is made of. -/
inductive Token where
  | name (chars : List Char)
  | lbrace
  | rbrace
  | comma
  deriving DecidableEq, Repr

/-- A character of a mnemonic, a directive or a number. -/
def isNameChar (c : Char) : Bool := c.isAlphanum || c == '.'

/-- The name read so far, if any. -/
def flushName (acc : List Char) : List Token := if acc = [] then [] else [.name acc]

/-- The tokens of a line, up to the comment that `;` begins; none where a character belongs to no token. The braces are
the characters 123 and 125. -/
def tokens : List Char → (acc : List Char) → Option (List Token)
  | [], acc => some (flushName acc)
  | c :: cs, acc =>
    if c = ';' then some (flushName acc)
    else if c = ' ' ∨ c = '\t' then (tokens cs []).map (flushName acc ++ ·)
    else if c = Char.ofNat 123 then (tokens cs []).map (flushName acc ++ .lbrace :: ·)
    else if c = Char.ofNat 125 then (tokens cs []).map (flushName acc ++ .rbrace :: ·)
    else if c = ',' then (tokens cs []).map (flushName acc ++ .comma :: ·)
    else if isNameChar c then tokens cs (acc ++ [c])
    else none

/-- The value of a digit. -/
def digitValue (base : Nat) (c : Char) : Option Nat :=
  let v :=
    if '0' ≤ c ∧ c ≤ '9' then c.toNat - 48
    else if 'a' ≤ c ∧ c ≤ 'f' then c.toNat - 87
    else if 'A' ≤ c ∧ c ≤ 'F' then c.toNat - 55
    else base
  if v < base then some v else none

/-- The value of the digits, after those already read. -/
def digitsValue (base : Nat) : List Char → (before : Nat) → Option Nat
  | [], before => some before
  | c :: cs, before =>
    match digitValue base c with
    | some v => digitsValue base cs (before * base + v)
    | none => none

/-- An unsigned number: decimal, or hexadecimal after `0x` (R81). -/
def numberValue : List Char → Option Nat
  | [] => none
  | '0' :: 'x' :: c :: cs => digitsValue 16 (c :: cs) 0
  | c :: cs => digitsValue 10 (c :: cs) 0

/-- `w0, w1, ...`: one number or more. -/
def numberList : List Token → Option (List Nat)
  | [.name cs] => (numberValue cs).map fun n => [n]
  | .name cs :: .comma :: rest =>
    match numberValue cs, numberList rest with
    | some n, some ns => some (n :: ns)
    | _, _ => none
  | _ => none

/-- The numbers between braces, none or more. -/
def bracedNumbers : List Token → Option (List Nat)
  | .lbrace :: rest =>
    if rest.getLast? = some .rbrace then
      if rest.dropLast = [] then some [] else numberList rest.dropLast
    else none
  | _ => none

/-- The line after its first word, by that word (R81, R82). -/
def lineOfWord (word : List Char) (rest : List Token) : Option Line :=
  let one : Option Nat := match rest with
    | [.name cs] => numberValue cs
    | _ => none
  if word = ['S', 'E', 'E', 'D', 'S'] then one.map .seeds
  else if word = ['S', 'E', 'E', 'D', 'A'] then (bracedNumbers rest).map .seedaKey
  else if word = ['S', 'E', 'E', 'D', 'A', '.', 'L'] then one.map .seedaLen
  else if word = ['N', 'E', 'X', 'T'] then if rest = [] then some .next else none
  else if word = ['.', 'k', 'e', 'y'] then (numberList rest).map .key
  else if word = ['.', 'w', 'o', 'r', 'd'] then one.map .word
  else if word = ['N', 'E', 'X', 'T', 'N'] then one.map .nextn
  else if word = ['C', 'R', 'E', 'A', 'T', 'E'] then
    match bracedNumbers rest with
    | some [e0, e1, e2, e3] => some (.create e0 e1 e2 e3)
    | _ => none
  else none

/-- One line of text: a line of the program, nothing (a blank or a comment), or an error. -/
def parseLine (text : List Char) : Option (Option Line) :=
  match tokens text [] with
  | some [] => some none
  | some (.name word :: rest) => (lineOfWord word rest).map some
  | _ => none

end Sys2Proof.Machine
end

