-- ==== Sys2Proof/Tests/Slice0.lean ====
section
/-! SUPPORT. The model's own tests: small, on fixed values, each from the vectors of 95_test_vectors.md or the rules'
worked examples (named in the docstring); and for every obligation with hypotheses a witness that meets them. -/

namespace Sys2Proof.Tests

open Sys2Proof.Machine Sys2Proof.Claims

/-! ## Well-formedness: an ill-formed term for each check -/

theorem test_seeds_number_too_wide : (Line.seeds 0x100000000).wellFormed = false := by decide
theorem test_seedaKey_word_too_wide : (Line.seedaKey [0, 0x100000000]).wellFormed = false := by decide
theorem test_seedaLen_number_too_wide : (Line.seedaLen 0x100000000).wellFormed = false := by decide
theorem test_key_word_too_wide : (Line.key [0x100000000]).wellFormed = false := by decide
theorem test_word_too_wide : (Line.word 0x400000000).wellFormed = false := by decide
theorem test_create_word_too_wide : (Line.create 0 0 0 0x100000000).wellFormed = false := by decide
theorem test_key_count_too_large : fitsWord 0x100000000 = false := by decide
theorem test_create_after_a_command : programWellFormed false [.next, .create 1 2 3 4] = false := by decide
theorem test_bad_line_in_program : programWellFormed false [.next, .seeds 0x100000000] = false := by decide
/-- P6 of 95_test_vectors.md is well formed; a directive before its `CREATE` would not matter. -/
theorem test_create_first : programWellFormed false [.key [9], .create 1 2 3 4, .next, .next] = true := by decide

/-! ## Decoding: words written out from R71, R72 (30_encoding.md) -/

/-- `op` = 01, `arg` = 4357. -/
theorem test_decode_seeds :
    decode 0b01_00000000000000000001000100000101#34 = .command (.seeds 4357) := by decide
/-- `op` = 10, `arg` = 0x80000001: both ends of the operand. -/
theorem test_decode_seeda :
    decode 0b10_10000000000000000000000000000001#34 = .command (.seeda 0x80000001) := by decide
theorem test_decode_next :
    decode 0b11_00000000000000000000000000000000#34 = .command .next := by decide
theorem test_decode_next_reserved :
    decode 0b11_10000000000000000000000000000000#34 = .illegal (.nextArg 0x80000000) := by decide
theorem test_decode_op_zero :
    decode 0b00_11111111111111111111111111111111#34 = .illegal (.opZero 0xFFFFFFFF) := by decide

/-- The table's numbering of the bits (spec/opcode_table.json `match`). -/
theorem test_table_words :
    decodeTableWord 34 0x100000000 = some (.seeds 0) ∧ decodeTableWord 34 0x200000000 = some (.seeda 0) ∧
      decodeTableWord 34 0x300000000 = some .next ∧ decodeTableWord 34 0x300000001 = none ∧
      decodeTableWord 34 0x500000000 = none := by decide

/-! ## Text of lines (R81, R82): the lines of P1, P2, P6, P7 -/

theorem test_parse_seeds :
    parseLine ['S', 'E', 'E', 'D', 'S', ' ', '4', '3', '5', '7', ' ', ';', ' ', '!'] = some (some (.seeds 4357)) := by
  decide
theorem test_parse_seeda :
    parseLine (['S', 'E', 'E', 'D', 'A', ' ', Char.ofNat 123, '0', 'x', '1', '2', '3', ',', ' '] ++
      ['0', 'x', '2', '3', '4', Char.ofNat 125]) = some (some (.seedaKey [0x123, 0x234])) := by decide
theorem test_parse_seeda_empty :
    parseLine ['S', 'E', 'E', 'D', 'A', ' ', Char.ofNat 123, Char.ofNat 125] = some (some (.seedaKey [])) := by decide
theorem test_parse_word :
    parseLine ['.', 'w', 'o', 'r', 'd', ' ', '0', 'x', '3', '0', '0', '0', '0', '0', '0', '0', '1'] =
      some (some (.word 0x300000001)) := by decide
theorem test_parse_lower_case_refused : parseLine ['n', 'e', 'x', 't'] = none := by decide

/-! ## SEEDS -/

/-- A register file of zeros but for `MT[0]`. -/
def headFile (w : Word) : RegFile := RegFile.set (Vector.replicate 624 0) 0 w

/-- T-SS-3: the first words of the recurrence from 4357. -/
theorem test_seeds_recurrence :
    let m := forUp seedStep 3 1 (headFile 0x00001105)
    RegFile.get m 1 = 0x9C4563FA ∧ RegFile.get m 2 = 0x25A828DA ∧ RegFile.get m 3 = 0xEF2AC805 := by decide +kernel

/-- T-FLT-8: `SEEDS 0` from reset does not fault; T-SS: `IDX` = 624. -/
theorem test_seeds_step :
    ∃ t, step (State.reset.withFetchWord 34 0x100000000) = .next t ∧ t.init = true ∧ t.idx = 624 ∧ t.fault = false :=
  ⟨_, exec_seeds 0 _, rfl, rfl, rfl⟩

/-! ## SEEDA -/

/-- T-SA-1, pass 1: iterations 0 and 1 (R113: `MT[1]` = FF890AD4, `MT[2]` = 9766A291), from T-SS-5's words. -/
theorem test_seeda_pass1 :
    let m := RegFile.set (RegFile.set (headFile 0x012BD6AA) 1 0x82D2AB13) 2 0x342096B7
    let w := pass1 4 [0x123, 0x234] 0 ⟨m, 1⟩
    RegFile.get w.mt 1 = 0xFF890AD4 ∧ RegFile.get w.mt 2 = 0x9766A291 ∧ w.i = 3 := by decide +kernel

/-- T-SA-1, pass 2: its first iteration, and its last but one, which wraps (R114: `MT[2]` = 51BE5D6D; the copy). -/
theorem test_seeda_pass2 :
    (let m := RegFile.set (RegFile.set (headFile 0) 1 0x5377A327) 2 0x9766A291
     RegFile.get (pass2 1 ⟨m, 2⟩).mt 2 = 0x51BE5D6D) ∧
    (let w := walkWrite ⟨headFile 7, 623⟩ 0x049ED813
     RegFile.get w.mt 623 = 0x049ED813 ∧ RegFile.get w.mt 0 = 0x049ED813 ∧ w.i = 1) := by decide +kernel

/-! ## NEXT -/

/-- A seeded, ready engine with `MT[0]` = `w`, the other words zero, at position `i`. -/
def seededAt (w : Word) (i : Position) : State := { State.reset with mt := headFile w, idx := i, init := true }

/-- T-NX-1, T-TW-8a: the draw of E9B80D3E emits FFEF1344 and moves to 1. -/
theorem test_next_draw :
    ∃ t, exec .next (seededAt 0xE9B80D3E 0) = .next t ∧ t.res = 0xFFEF1344 ∧ t.idx = 1 ∧ t.resValid = true :=
  ⟨_, exec_next_pending _ rfl (by decide), by decide +kernel⟩

/-- T-TW-1 to T-TW-7, and T-TW-8c. -/
theorem test_twist_words :
    twistWord 0 0 0 = 0 ∧ twistWord 0x80000000 0 0 = 0x40000000 ∧ twistWord 0 1 0 = 0x9908B0DF ∧
      twistWord 0 2 0 = 1 ∧ twistWord 0xFFFFFFFF 0xFFFFFFFF 0 = 0xE6F74F20 ∧
      twistWord 0x7FFFFFFF 0x80000000 0x12345678 = 0x12345678 ∧
      twistWord 0x80000000 0x7FFFFFFF 0xFFFFFFFF = 0x1908B0DF ∧
      twistWord 0x25A828DA 0xEF2AC805 0x2215E4BA = 0x8C883067 := by decide

/-- T-TP-4, T-TP-7 and their signed readings. -/
theorem test_temper :
    temper 0xFFFFFFFF = 0x6FE01BF8 ∧ sint32 (temper 0xFFFFFFFF) = 1876958200 ∧ temper 0xDEADBEEF = 0xE016575D ∧
      sint32 (temper 0xDEADBEEF) = -535406755 := by decide

/-- T-TW-15, its first positions: the in-place sweep, k = 0 and 1. -/
theorem test_twist_in_place :
    let m := forUp twistStep 2 0 (headFile 0x80000000)
    RegFile.get m 0 = 0x40000000 ∧ RegFile.get m 1 = 0 := by decide +kernel

/-! ## Faults, status, reset -/

/-- T-FLT-1. -/
theorem test_fault_not_initialised :
    ∃ t, step (State.reset.withFetchWord 34 0x300000000) = .next t ∧ t.status = 0b1010 ∧ t.emitted = [] :=
  ⟨_, rfl, by decide⟩
/-- T-FLT-2. -/
theorem test_fault_zero_length :
    ∃ t, step (State.reset.withFetchWord 34 0x200000000) = .next t ∧ t.status = 0b1110 ∧ t.keyReads = [] :=
  ⟨_, rfl, by decide⟩
/-- T-FLT-4. -/
theorem test_fault_illegal :
    ∃ t, step (State.reset.withFetchWord 34 0x000000000) = .next t ∧ t.status = 0b0110 ∧ t.cmdReady = false :=
  ⟨_, rfl, by decide⟩
/-- T-FLT-3, the status of a seeded engine that faults. -/
theorem test_fault_seeded_status : ((seededAt 1 3).raise .zeroLengthKey).status = 0b1111 := by decide
/-- P3: the command after a fault is never accepted. -/
theorem test_faulted_accepts_nothing :
    step { State.reset.raise .notInitialised with host := [.present 0x100001105#34] } =
      .next (State.reset.raise .notInitialised) := by rfl
/-- T-FLT-7. -/
theorem test_reset_clears_fault :
    ∃ t, step { State.reset.raise .illegalCommand with host := [.setRst true] } = .next t ∧ t.status = 0 ∧
      t.cmdReady = false := ⟨_, rfl, by decide⟩

/-! ## Witnesses: for each obligation with hypotheses, states and operands that meet them all -/

/-- Key memory with the words 0, ..., n - 1 at the indices a, a + 1, ... all answered. -/
def keysFrom : (n a : Nat) → KeyMem
  | 0, _ => []
  | n + 1, a => (a, zext32 a) :: keysFrom n (a + 1)

theorem keysFrom_read (n a j : Nat) (h1 : a ≤ j) (h2 : j < a + n) :
    (KeyMem.read (keysFrom n a) j).isSome = true := by
  induction n generalizing a with
  | zero => omega
  | succ n ih =>
    simp only [keysFrom, KeyMem.read]
    split
    · rfl
    · exact ih (a + 1) (by omega) (by omega)

/-- The state, with the actions `acts` to come. -/
def withHost (s : State) (acts : List HostAction) : State := { s with host := acts }

/-- A reset engine whose host answers the key indices 0, ..., n - 1, with the actions `acts` to come. -/
def keyedState (n : Nat) (acts : List HostAction) : State :=
  { State.reset with keyMem := keysFrom n 0, host := acts }

/-- KeysAnswered, at `L` = 1, 623, 624, 625, as SeedaMixesTheKey, WordZeroAfterSeeding, KeyReadsInOrder and
ZeroFileIsDegenerate assume it. -/
theorem witness_keys_answered :
    (1#32 ≠ 0 ∧ KeysAnswered (keyedState 1 []) 1) ∧ (623#32 ≠ 0 ∧ KeysAnswered (keyedState 623 []) 623) ∧
      (624#32 ≠ 0 ∧ KeysAnswered (keyedState 624 []) 624) ∧ (625#32 ≠ 0 ∧ KeysAnswered (keyedState 625 []) 625) :=
  ⟨⟨by decide, fun j h => keysFrom_read 1 0 j (Nat.zero_le _) (by simpa using h)⟩,
    ⟨by decide, fun j h => keysFrom_read 623 0 j (Nat.zero_le _) (by simpa using h)⟩,
    ⟨by decide, fun j h => keysFrom_read 624 0 j (Nat.zero_le _) (by simpa using h)⟩,
    ⟨by decide, fun j h => keysFrom_read 625 0 j (Nat.zero_le _) (by simpa using h)⟩⟩

/-- DecodeEncodeAgree, both sides; CommandWordClasses, at the ends of each class. -/
theorem witness_word_classes :
    (decode 0x2FFFFFFFF#34 = .command (.seeda 0xFFFFFFFF) ∧ (Instr.seeda 0xFFFFFFFF).wellFormed = true ∧
      encode (.seeda 0xFFFFFFFF) = 0x2FFFFFFFF#34) ∧
    decode 0x0FFFFFFFF#34 = .illegal (.opZero 0xFFFFFFFF) ∧ decode 0x100000000#34 = .command (.seeds 0) ∧
    decode 0x1FFFFFFFF#34 = .command (.seeds 0xFFFFFFFF) ∧ decode 0x200000000#34 = .command (.seeda 0) ∧
    decode 0x300000000#34 = .command .next ∧ decode 0x300000001#34 = .illegal (.nextArg 1) ∧
    decode 0x3FFFFFFFF#34 = .illegal (.nextArg 0xFFFFFFFF) := by decide

/-- LinesPresentTheirWords: each kind of line at the ends of its numbers. -/
theorem witness_well_formed_lines :
    (Line.seeds 0xFFFFFFFF).wellFormed = true ∧ (Line.seeds 0).wellFormed = true ∧
    (Line.seedaLen 0xFFFFFFFF).wellFormed = true ∧ (Line.word 0x3FFFFFFFF).wellFormed = true ∧
    (Line.word 0).wellFormed = true ∧ (Line.key []).wellFormed = true ∧
    (Line.key [0xFFFFFFFF, 0]).wellFormed = true ∧ (Line.seedaKey []).wellFormed = true ∧
    (Line.seedaKey [0xFFFFFFFF]).wellFormed = true := by decide

/-- AcceptedCommandExecutes: a ready engine with a word of each command, and of each reserved pattern, presented. -/
theorem witness_accepted :
    (∀ cw, (State.reset.presentNext cw).host = .present cw :: [] ∧ (State.reset.presentNext cw).cmdReady = true) ∧
    decode 0x1FFFFFFFF#34 = .command (.seeds 0xFFFFFFFF) ∧ decode 0x200000000#34 = .command (.seeda 0) ∧
    decode 0x300000000#34 = .command .next ∧ opField 0x000000000#34 = 0b00#2 ∧ opField 0x0FFFFFFFF#34 = 0b00#2 ∧
    (opField 0x300000001#34 = 0b11#2 ∧ argField 0x300000001#34 ≠ 0#32) ∧
    (opField 0x3FFFFFFFF#34 = 0b11#2 ∧ argField 0x3FFFFFFFF#34 ≠ 0#32) := ⟨fun _ => ⟨rfl, rfl⟩, by decide⟩

/-- A `SEEDA` of `L` = `len` waiting, on a reset engine, for its key index 0; with the actions `acts` to come. -/
def waitingState (len : Word) (acts : List HostAction) : State :=
  { State.reset with busy := some ⟨len, []⟩, host := acts }

/-- NotReadyIsNotAccepted: a faulted, a waiting and a resetting engine, each with a word presented. -/
theorem witness_not_ready :
    ((State.reset.raise .notInitialised).presentNext 0x100001105#34).cmdReady = false ∧
    (waitingState 1 [.present 0x100001105#34]).cmdReady = false ∧
    ((State.reset.driveRst true).presentNext 0x100001105#34).cmdReady = false := by decide

/-- FaultEntryIsPrecise: both reserved patterns, and `INIT` = 0. -/
theorem witness_fault_conditions :
    opField 0x0FFFFFFFF#34 = 0b00#2 ∧ (opField 0x300000001#34 = 0b11#2 ∧ argField 0x300000001#34 ≠ 0#32) ∧
    (opField 0x3FFFFFFFF#34 = 0b11#2 ∧ argField 0x3FFFFFFFF#34 ≠ 0#32) ∧ State.reset.init = false := by decide

/-- FaultConditionsDecideFault: a word that faults, and (`SEEDS`) one that does not. -/
theorem witness_fault_decided :
    (State.reset.fault = false ∧ accept 0x300000000#34 State.reset = .next (State.reset.raise .notInitialised)) ∧
    (decode 0x100000000#34 = .command (.seeds 0) ∧ ∃ t, accept 0x100000000#34 State.reset = .next t ∧ t.fault = false) :=
  ⟨⟨rfl, rfl⟩, by decide, _, exec_seeds 0 _, rfl⟩

/-- No reset from an engine whose `rst` is 0 and whose host does not drive it. -/
theorem not_resetEdge (s : State) (h0 : s.rst = false) (h1 : ∀ rest, s.host ≠ .setRst true :: rest) : ¬ ResetEdge s := by
  rintro (h | ⟨rest, h | ⟨-, h, -⟩⟩)
  · simp [h0] at h
  · exact h1 rest h
  · exact HostAction.noConfusion h

theorem waitIsForKey_idle (s : State) (h : s.busy = none) : s.WaitIsForKey := by
  intro run hr; simp [h] at hr

theorem waitIsForKey_waiting (len : Word) (acts : List HostAction) (h : len ≠ 0) :
    (waitingState len acts).WaitIsForKey := by
  intro run hr
  obtain rfl : ⟨len, []⟩ = run := Option.some.inj hr
  exact ⟨h, by simp [SeedaRun.total], rfl, rfl, rfl⟩

/-- FaultIsSticky: a faulted engine with `SEEDS 4357` presented (P3). -/
theorem witness_sticky :
    let s := (State.reset.raise .notInitialised).presentNext 0x100001105#34
    s.WaitIsForKey ∧ s.fault = true ∧ ¬ ResetEdge s ∧ step s = .next (State.reset.raise .notInitialised) :=
  ⟨waitIsForKey_idle _ rfl, rfl, not_resetEdge _ rfl (by intro _ h; cases h), rfl⟩

/-- OnlyResetClearsFaultAndInit: with `FAULT` = 1, and with `INIT` = 1 (a draw). -/
theorem witness_flags_kept :
    (let s := State.reset.raise .zeroLengthKey
     step s = .next s ∧ ¬ ResetEdge s ∧ s.fault = true) ∧
    (let s := (seededAt 1 623).presentNext 0x300000000#34
     ¬ ResetEdge s ∧ s.init = true ∧ ∃ t, step s = .next t) :=
  ⟨⟨rfl, not_resetEdge _ rfl (by intro _ h; cases h), rfl⟩, not_resetEdge _ rfl (by intro _ h; cases h), rfl, _,
    exec_next_pending ((seededAt 1 623).beginEdge []) rfl (by decide)⟩

/-- OnlyOutsideEventsStop: each of the three ways. -/
theorem witness_stops :
    step State.reset = .next State.reset ∧
    step { State.reset with host := [.contend 0x300000000#34 0x100000000#34] } = .fault .commandPortRace ∧
    step { State.reset with host := [.losePower] } = .refused .powerOrClockLost := ⟨rfl, rfl, rfl⟩

/-- SeedaDependsOnKeyAlone, SeedsForgetsTheStateBefore: two engines of different histories, with one key. -/
theorem witness_two_histories :
    let s := keyedState 1 []
    let s' := { seededAt 5 17 with keyMem := keysFrom 1 0 }
    1#32 ≠ 0 ∧ KeysAnswered s 1 ∧ s.idx ≠ s'.idx ∧
      ∀ j, j < (1#32).toNat → KeyMem.read s.keyMem j = KeyMem.read s'.keyMem j :=
  ⟨by decide, witness_keys_answered.1.2, by decide, fun _ _ => rfl⟩

/-- SeedaWaitsForKeyWord: the wait at the first key word, and at the second of two. -/
theorem witness_wait_conditions :
    ((0#32).toNat < (0xFFFFFFFF#32).toNat ∧ KeyMem.read State.reset.keyMem (0#32).toNat = none ∧
      ∀ k, k < (0#32).toNat → (KeyMem.read State.reset.keyMem k).isSome = true) ∧
    ((1#32).toNat < (2#32).toNat ∧ KeyMem.read (keyedState 1 []).keyMem (1#32).toNat = none ∧
      ∀ k, k < (1#32).toNat → (KeyMem.read (keyedState 1 []).keyMem k).isSome = true) :=
  ⟨⟨by decide, rfl, fun k h => absurd h (Nat.not_lt_zero k)⟩,
    by decide, rfl, fun k h => keysFrom_read 1 0 k (Nat.zero_le _) (by simpa using h)⟩

/-- WaitHoldsEverything: an idle edge, and a write of another key index. -/
theorem witness_wait_holds :
    (let s := waitingState 1 []
     s.WaitIsForKey ∧ s.busy = some ⟨1, []⟩ ∧ ¬ ResetEdge s ∧
      (∀ j w rest, s.Performs (.setKey j w) rest → j.toNat ≠ 0) ∧ step s = .next s) ∧
    (let s := waitingState 1 [.setKey 1 9]
     s.WaitIsForKey ∧ s.busy = some ⟨1, []⟩ ∧ ¬ ResetEdge s ∧
      (∀ j w rest, s.Performs (.setKey j w) rest → j.toNat ≠ 0) ∧
      step s = .next { waitingState 1 [] with keyMem := [(1, 9)] }) := by
  refine ⟨⟨waitIsForKey_waiting _ _ (by decide), rfl, not_resetEdge _ rfl (by intro _ h; cases h), ?_, ?_⟩,
    waitIsForKey_waiting _ _ (by decide), rfl, not_resetEdge _ rfl (by intro _ h; cases h), ?_, ?_⟩
  · rintro j w rest (h | ⟨-, h, -⟩)
    · simp [waitingState] at h
    · exact HostAction.noConfusion h
  · rfl
  · rintro j w rest (h | ⟨-, h, -⟩)
    · simp only [waitingState, List.cons.injEq, HostAction.setKey.injEq] at h
      obtain ⟨⟨rfl, -⟩, -⟩ := h; decide
    · exact HostAction.noConfusion h
  · rfl

/-- LateKeyWordEqualsEarly: a reset engine that begins to wait for key index 0. -/
theorem witness_late_key :
    State.reset.rst = false ∧ State.reset.busy = none ∧ KeyMem.read State.reset.keyMem (0#32).toNat = none ∧
      exec (.seeda 1) State.reset = .next (waitingState 1 []) := ⟨rfl, rfl, rfl, rfl⟩

/-- NextDrawsPendingWord at both ends of Pending; NextTwistsWhenExhausted at both ends of Exhausted. -/
theorem witness_positions :
    (∀ i, (seededAt 1 i).init = true) ∧ (seededAt 1 0).idx.toNat < 624 ∧ (seededAt 1 623).idx.toNat < 624 ∧
      624 ≤ (seededAt 1 624).idx.toNat ∧ 624 ≤ (seededAt 1 1023).idx.toNat := ⟨fun _ => rfl, by decide⟩

/-- DrawsFollowTheTwists: any number of draws. -/
theorem witness_draws :
    ∀ n, let s := withHost (seededAt 1 624) (List.replicate n (.present 0x300000000#34) ++ [.idle])
      s.cmdReady = true ∧ s.init = true ∧ s.idx = 624 ∧
        s.host = List.replicate n (.present 0x300000000#34) ++ [.idle] := fun _ => ⟨rfl, rfl, rfl, rfl⟩

/-- SeedDeterminesOutput: `SEEDS`, and `SEEDA` with one key in two hosts, each with any number of draws to follow. -/
theorem witness_seeds_alike :
    ∀ n,
      (let acts := .present (encode (.seeds 4357)) :: (List.replicate n (.present (encode .next)) ++ [])
       let s := withHost State.reset acts
       let s' := withHost (seededAt 5 17) acts
       s.cmdReady = true ∧ s'.cmdReady = true ∧ SeedsAlike (.seeds 4357) s s' ∧ s.host = acts ∧ s'.host = acts) ∧
      (let acts := .present (encode (.seeda 1)) :: (List.replicate n (.present (encode .next)) ++ [])
       let s := keyedState 1 acts
       let s' := { seededAt 5 17 with keyMem := keysFrom 1 0, host := acts }
       s.cmdReady = true ∧ s'.cmdReady = true ∧ SeedsAlike (.seeda 1) s s' ∧ s.host = acts ∧ s'.host = acts) :=
  fun _ => ⟨⟨rfl, rfl, trivial, rfl, rfl⟩, rfl, rfl,
    ⟨by decide, fun j h => keysFrom_read 1 0 j (Nat.zero_le _) (by simpa using h), fun _ _ => rfl⟩, rfl, rfl⟩

/-- A step at which a command word is presented answers a next state. -/
theorem step_present (s : State) (cw : CmdWord) (rest : List HostAction) (h : s.host = .present cw :: rest) :
    ∃ t, step s = .next t := by
  rw [step_eq_edge s _ _ (.inl h)]
  simp only [edge, accept]
  split
  · split
    · exact exec_next _ _
    · exact ⟨_, rfl⟩
  · exact ⟨_, rfl⟩

/-- ResultsComeFromNextAlone, GeneratorStateWriters: steps that seed, draw, twist, and reset. -/
theorem witness_writers :
    (Accepts (State.reset.presentNext (encode (.seeds 0))) (.seeds 0) ∧
      ∃ t, step (State.reset.presentNext (encode (.seeds 0))) = .next t) ∧
    (Accepts ((seededAt 1 0).presentNext (encode .next)) .next ∧
      ∃ t, step ((seededAt 1 0).presentNext (encode .next)) = .next t) ∧
    (Accepts ((seededAt 1 624).presentNext (encode .next)) .next ∧
      ∃ t, step ((seededAt 1 624).presentNext (encode .next)) = .next t) ∧
    (ResetEdge (withHost (seededAt 1 0) [.setRst true]) ∧
      ∃ t, step (withHost (seededAt 1 0) [.setRst true]) = .next t) :=
  ⟨⟨⟨rfl, [], .inl rfl⟩, step_present _ _ [] rfl⟩, ⟨⟨rfl, [], .inl rfl⟩, step_present _ _ [] rfl⟩,
    ⟨⟨rfl, [], .inl rfl⟩, step_present _ _ [] rfl⟩, .inr ⟨[], .inl rfl⟩, _, step_eq_edge _ (.setRst true) [] (.inl rfl)⟩

theorem hold_keyMem (s : State) : s.hold.keyMem = s.keyMem := by
  rcases s.hold_cases with ⟨-, h⟩ | ⟨-, run, -, h⟩ | ⟨-, -, h⟩ <;> rw [h]
  · rfl
  · exact (s.runSeeda_frame run).2.2.2.2.2.1

/-- A waiting `SEEDA` whose last key word arrives: a step that EngineNeverWritesKeys, GeneratorStateWriters,
SeededStaysLive and WaitingIsKept speak of. -/
theorem witness_wait_ends :
    (waitingState 1 [.setKey 0 9]).busy = some ⟨1, []⟩ ∧ (waitingState 1 [.setKey 0 9]).WaitIsForKey ∧
    ∃ t, step (waitingState 1 [.setKey 0 9]) = .next t ∧ t.keyMem = [(0, 9)] ∧
      t.keyMem ≠ (waitingState 1 [.setKey 0 9]).keyMem := by
  have h := hold_keyMem (((waitingState 1 [.setKey 0 9]).beginEdge []).writeKey 0 9)
  refine ⟨rfl, waitIsForKey_waiting _ _ (by decide), _,
    step_eq_edge _ (.setKey 0 9) [] (.inl rfl), h, ?_⟩
  rw [h]; decide

/-- IdleHoldsTheState: a waiting engine; an engine in reset. -/
theorem witness_idle :
    ((waitingState 1 [.idle]).WaitIsForKey ∧ (waitingState 1 [.idle]).ResetHolds ∧
      (waitingState 1 [.idle]).Performs .idle []) ∧
    ((State.reset.driveRst true).WaitIsForKey ∧ (State.reset.driveRst true).ResetHolds ∧
      (State.reset.driveRst true).Performs .idle []) :=
  ⟨⟨waitIsForKey_waiting _ _ (by decide), fun h => Bool.noConfusion h, .inl rfl⟩, waitIsForKey_idle _ rfl,
    fun _ => ⟨rfl, rfl, rfl, rfl, rfl, rfl, rfl, rfl⟩, .inr ⟨rfl, rfl, rfl⟩⟩

/-- ResetFromAnyState: a waiting engine; CreateGeneratorSeeds: the largest entropy words. -/
theorem witness_reset_and_create :
    (waitingState 1 [.setRst true, .setRst false, .idle]).host = .setRst true :: .setRst false :: [.idle] ∧
    (Line.create 0xFFFFFFFF 0xFFFFFFFF 0 1).wellFormed = true ∧
    (withHost (seededAt 1 3) (createGenerator 0xFFFFFFFF 0xFFFFFFFF 0 1 ++ [.idle])).host =
      createGenerator 0xFFFFFFFF 0xFFFFFFFF 0 1 ++ [.idle] :=
  ⟨rfl, by decide, rfl⟩

/-- ResetKeepsHolding, with `rst` = 1. -/
theorem witness_in_reset :
    let s := State.reset.driveRst true
    s.rst = true ∧ s.ResetHolds ∧ step s = .next s :=
  ⟨rfl, fun _ => ⟨rfl, rfl, rfl, rfl, rfl, rfl, rfl, rfl⟩, rfl⟩

/-- The invariants' premises with a step: an idle reset engine for all of them; and a seeded engine with a word
pulsing on the result port, where the premises of SeededStaysLive and PulseKeepsShowingResult are not empty. -/
theorem witness_invariants :
    (step State.reset = .next State.reset ∧ State.reset.PositionInRange ∧ State.reset.CauseTellsFault ∧
      State.reset.ResetHolds ∧ State.reset.UnseededIsZero ∧ State.reset.SeededIsLive ∧
      State.reset.PulseShowsResult ∧ KeyMem.wf State.reset.keyMem) ∧
    (let s : State := { seededAt 0x80000000 624 with res := 5, resValid := true, emitted := [5], keyMem := [(0, 1), (7, 2)] }
     s.PositionInRange ∧ s.CauseTellsFault ∧ s.ResetHolds ∧ s.UnseededIsZero ∧ s.SeededIsLive ∧
      s.PulseShowsResult ∧ KeyMem.wf s.keyMem ∧ step s = .next { s with resValid := false }) := by
  refine ⟨⟨rfl, by decide, by decide, by decide, fun _ => ⟨rfl, rfl, rfl⟩, fun h => Bool.noConfusion h, by decide, by decide⟩,
    by decide, by decide, fun h => Bool.noConfusion h, fun h => Bool.noConfusion h, fun _ => .inl ?_, fun _ => rfl,
    by decide, rfl⟩
  simp only [seededAt, headFile]
  rw [RegFile.get_set_self _ _ _ (by decide)]
  decide

end Sys2Proof.Tests
end

section
/-! PROOFS. Scope (00_scope.md): the signed reading of a result, and the output after a seeding command as a function of
the seed. Each engine is followed on its own: seeding leaves a generator state (`MT`, `IDX`) that the command and its key
words determine, and the draws from there are a function of that generator state. -/

namespace Sys2Proof.Machine

open Sys2Proof.Claims

/-! The signed reading (R10, R137). -/

theorem sint32_eq_toInt (v : Word) : sint32 v = v.toInt := by
  rw [BitVec.toInt_eq_toNat_cond, sint32]
  split_ifs <;> omega

/-- Settles O36: `sint32` is the library's two's-complement reading. -/
theorem signedReadingOfResult : Obligations.SignedReadingOfResult := by
  intro v
  rw [sint32_eq_toInt]
  have hneg : v.toInt < 0 ↔ v.getLsbD 31 = true := by
    rw [← BitVec.msb_eq_getLsbD_last, BitVec.msb_eq_toInt, decide_eq_true_iff]
  exact ⟨BitVec.ofInt_toInt, hneg, BitVec.le_toInt v, BitVec.toInt_lt⟩

/-! A command presented to a ready engine (R75, R76). -/

/-- The decoder reads back every command the encoder writes (R72, R76). -/
theorem decode_encode (i : Instr) : decode (encode i) = .command i := by
  cases i <;> simp [decode, encode, Laws.Fields.opField_joinFields, Laws.Fields.argField_joinFields]

/-- A ready engine executes the command presented (R75). -/
theorem step_presented (s : State) (i : Instr) (rest : List HostAction) (hr : s.cmdReady = true)
    (hh : s.host = .present (encode i) :: rest) : step s = exec i (s.beginEdge rest) := by
  rw [step_eq_edge s _ rest (.inl hh)]
  simp [edge, accept, State.beginEdge_cmdReady, hr, decode_encode]

/-! Seeding: the register file does not depend on the one before. -/

/-- The word that iteration `i` of the scalar fill writes (R100). -/
def seedWord (i : Nat) (m : RegFile) : Word := Config.initMult * mixShift (RegFile.get m (i - 1)) + zext32 i

/-- The scalar fill is a sweep: iteration `i` writes `MT[i]` alone. -/
theorem seedFill_eq_sweep (seed : Word) (m : RegFile) :
    seedFill seed m = forUp (fun k m => RegFile.set m k (seedWord k m)) 623 1 (RegFile.set m 0 seed) := by
  unfold seedFill; rfl

/-- The scalar fill follows the recurrence of R100: each word is computed from the word before it, which no later
iteration writes. -/
theorem seedFill_filledFrom (seed : Word) (m : RegFile) : FilledFrom seed (seedFill seed m) := by
  rw [seedFill_eq_sweep]
  refine ⟨?_, fun i h1 h2 => ?_⟩
  · rw [sweep_get_outside _ _ _ _ _ (by omega) (by omega), RegFile.get_set_self _ _ _ (by omega)]
  · have hcut : 623 = (i - 1) + (624 - i) := by omega
    rw [sweep_get_inside _ _ _ _ _ h2 h1 (by omega), hcut, forUp_add,
      sweep_get_outside _ (624 - i) _ _ (i - 1) (by omega) (by omega)]
    rfl

/-- One register file alone follows the recurrence from a given seed. -/
theorem filledFrom_unique (seed : Word) (m m' : RegFile) (h : FilledFrom seed m) (h' : FilledFrom seed m') : m = m' := by
  obtain ⟨h0, hs⟩ := h
  obtain ⟨h0', hs'⟩ := h'
  refine RegFile.ext_get m m' fun i => ?_
  induction i with
  | zero => intro _; rw [h0, h0']
  | succ i ih =>
    intro hi
    rw [hs _ (by omega) hi, hs' _ (by omega) hi, Nat.add_sub_cancel, ih (by omega)]

/-- R101: the scalar fill forgets the register file before it. -/
theorem seedFill_forgets (seed : Word) (m m' : RegFile) : seedFill seed m = seedFill seed m' :=
  filledFrom_unique seed _ _ (seedFill_filledFrom seed m) (seedFill_filledFrom seed m')

/-- R118: the array fill, which begins with a scalar fill, forgets the register file before it. -/
theorem arrayFill_forgets (len : Nat) (keys : List Word) (m m' : RegFile) :
    arrayFill len keys m = arrayFill len keys m' := by
  unfold arrayFill
  rw [seedFill_forgets _ m m']

/-! The generator state, and draws as a function of it. -/

/-- The part of the state that draws depend on (R140): `MT` and `IDX`. -/
def State.gen (s : State) : RegFile × Position := (s.mt, s.idx)

/-- `if IDX >= 624: twist()` on the generator state (R130). -/
def genTwistIfDue (g : RegFile × Position) : RegFile × Position :=
  if 624 ≤ g.2.toNat then (twist g.1, 0) else g

/-- The word that a draw emits (R133, R135). -/
def genWord (g : RegFile × Position) : Word :=
  temper (RegFile.get (genTwistIfDue g).1 (genTwistIfDue g).2.toNat)

/-- The generator state that a draw leaves (R133). -/
def genNext (g : RegFile × Position) : RegFile × Position := ((genTwistIfDue g).1, (genTwistIfDue g).2 + 1)

/-- The words that `n` draws emit, oldest first. -/
def genWords : (n : Nat) → RegFile × Position → List Word
  | 0, _ => []
  | n + 1, g => genWord g :: genWords n (genNext g)

theorem genWords_length (n : Nat) (g : RegFile × Position) : (genWords n g).length = n := by
  induction n generalizing g with
  | zero => rfl
  | succ n ih => simp [genWords, ih]

@[simp] theorem State.gen_beginEdge (s : State) (rest : List HostAction) : (s.beginEdge rest).gen = s.gen := rfl

theorem State.gen_seeded (s : State) (m : RegFile) : (s.seeded m).gen = (m, 624) := rfl

/-- The twist, if due, changes the generator state alone. -/
theorem State.twistIfDue_eq (s : State) :
    s.twistIfDue = { s with mt := (genTwistIfDue s.gen).1, idx := (genTwistIfDue s.gen).2 } := by
  by_cases h : 624 ≤ s.idx.toNat
  · simp [s.twistIfDue_exhausted h, genTwistIfDue, State.gen, h, State.regenerated]
  · simp [s.twistIfDue_pending (by omega), genTwistIfDue, State.gen, h]

/-- `NEXT` on a seeded engine (R130, R133, R136): what it does is a function of the generator state. -/
theorem exec_next_seeded (s : State) (h : s.init = true) :
    exec .next s = .next ({ s with mt := (genNext s.gen).1, idx := (genNext s.gen).2 }.deliver (genWord s.gen)) := by
  simp only [exec, execNext, h, Bool.true_eq_false, if_false, State.draw, State.twistIfDue_eq]
  rfl

/-- A ready, seeded engine given a `NEXT` draws, and is ready again. -/
theorem step_draw (s : State) (rest : List HostAction) (hr : s.cmdReady = true) (hi : s.init = true)
    (hh : s.host = .present (encode .next) :: rest) :
    ∃ t, step s = .next t ∧ t.cmdReady = true ∧ t.init = true ∧ t.host = rest ∧ t.gen = genNext s.gen ∧
      t.emitted = s.emitted ++ [genWord s.gen] :=
  ⟨_, (step_presented s .next rest hr hh).trans (exec_next_seeded (s.beginEdge rest) hi), hr, hi, rfl, rfl, rfl⟩

/-- A ready, seeded engine given `n` `NEXT`s emits the `n` words its generator state determines (R134, R140). -/
theorem run_draws (n : Nat) (s : State) (rest : List HostAction) (hr : s.cmdReady = true) (hi : s.init = true)
    (hh : s.host = List.replicate n (.present (encode .next)) ++ rest) :
    ∃ t, core.run n s = .next t ∧ t.gen = genNext^[n] s.gen ∧ t.emitted = s.emitted ++ genWords n s.gen := by
  induction n generalizing s with
  | zero => exact ⟨s, rfl, rfl, by simp [genWords]⟩
  | succ n ih =>
    rw [List.replicate_succ, List.cons_append] at hh
    obtain ⟨u, hstep, hr', hi', hhost, hgen', hem'⟩ := step_draw s _ hr hi hh
    obtain ⟨t, hrun, hgen, hem⟩ := ih u hr' hi' hhost
    rw [hgen'] at hgen hem
    rw [hem', List.append_assoc] at hem
    exact ⟨t, (run_first n s u hstep).trans hrun, hgen, hem⟩

/-! Seeding a ready engine. -/

/-- `t` is `s` after a completed seeding command that filled the register file as `m`, on an engine that stays ready. -/
structure SeededWith (m : RegFile) (s t : State) : Prop where
  gen : t.gen = (m, 624)
  init : t.init = true
  ready : t.cmdReady = true
  host : t.host = s.host
  emitted : t.emitted = s.emitted

theorem seededWith_seeds (seed : Word) (s : State) (m : RegFile) (hr : s.cmdReady = true) :
    ∃ t, exec (.seeds seed) s = .next t ∧ SeededWith (seedFill seed m) s t := by
  rw [exec_seeds, seedFill_forgets seed s.mt m]
  exact ⟨_, rfl, State.gen_seeded _ _, rfl, hr, rfl, rfl⟩

theorem seededWith_seeda (len : Word) (s : State) (m : RegFile) (hr : s.cmdReady = true) (hl : len ≠ 0)
    (hk : KeysAnswered s len) :
    ∃ t, exec (.seeda len) s = .next t ∧
      SeededWith (arrayFill len.toNat
        ((List.range (max 624 len.toNat)).map fun n => keyWord s (n % len.toNat)) m) s t := by
  obtain ⟨hrst, -, hfault⟩ := s.cmdReady_iff.mp hr
  rw [exec_seeda _ _ hl, s.runSeeda_complete len hl hk, arrayFill_forgets _ _ s.mt m]
  exact ⟨_, rfl, State.gen_seeded _ _, rfl, (State.cmdReady_iff _).mpr ⟨hrst, rfl, hfault⟩, rfl, rfl⟩

/-- Two ready engines seeded alike are filled alike (R101, R118). -/
theorem seedsAlike_seededWith (i : Instr) (s s' : State) (hr : s.cmdReady = true) (hr' : s'.cmdReady = true)
    (h : SeedsAlike i s s') :
    ∃ m t t', exec i s = .next t ∧ exec i s' = .next t' ∧ SeededWith m s t ∧ SeededWith m s' t' := by
  cases i with
  | seeds seed =>
    obtain ⟨t, ht, hs⟩ := seededWith_seeds seed s s.mt hr
    obtain ⟨t', ht', hs'⟩ := seededWith_seeds seed s' s.mt hr'
    exact ⟨_, t, t', ht, ht', hs, hs'⟩
  | seeda len =>
    obtain ⟨hl, hk, hsame⟩ := h
    have hpos : 0 < len.toNat := Nat.pos_of_ne_zero fun h0 => hl (BitVec.eq_of_toNat_eq (by simpa using h0))
    have hk' : KeysAnswered s' len := fun j hj => hsame j hj ▸ hk j hj
    have hwords : (fun n => keyWord s' (n % len.toNat)) = fun n => keyWord s (n % len.toNat) :=
      funext fun n => by rw [keyWord, keyWord, hsame _ (Nat.mod_lt n hpos)]
    obtain ⟨t, ht, hs⟩ := seededWith_seeda len s s.mt hr hl hk
    obtain ⟨t', ht', hs'⟩ := seededWith_seeda len s' s.mt hr' hl hk'
    rw [hwords] at hs'
    exact ⟨_, t, t', ht, ht', hs, hs'⟩
  | next => exact h.elim

/-- Whether two states are seeded alike does not depend on the host's actions to come. -/
theorem seedsAlike_beginEdge (i : Instr) (s s' : State) (rest rest' : List HostAction) :
    SeedsAlike i (s.beginEdge rest) (s'.beginEdge rest') ↔ SeedsAlike i s s' := by
  cases i <;> rfl

/-- A run that seeds and then draws: its words and its generator state are those of the register file filled. -/
theorem run_seed_draws (n : Nat) (m : RegFile) (s u : State) (rest : List HostAction) (hu : step s = .next u)
    (hs : SeededWith m (s.beginEdge (List.replicate n (.present (encode .next)) ++ rest)) u) :
    ∃ t, core.run (n + 1) s = .next t ∧ t.gen = genNext^[n] (m, 624) ∧
      t.emitted = s.emitted ++ genWords n (m, 624) := by
  obtain ⟨t, hrun, hgen, hem⟩ := run_draws n u rest hs.ready hs.init hs.host
  rw [hs.gen] at hgen hem
  rw [hs.emitted] at hem
  exact ⟨t, (run_first n s u hu).trans hrun, hgen, hem⟩

/-- Settles O27: both engines draw from the generator state that the seeding command determines. -/
theorem seedDeterminesOutput : Obligations.SeedDeterminesOutput := by
  intro n i s s' rest rest' hr hr' halike hh hh'
  obtain ⟨m, u, u', hu, hu', hs, hs'⟩ := seedsAlike_seededWith i _ _
    ((s.beginEdge_cmdReady _).trans hr) ((s'.beginEdge_cmdReady _).trans hr')
    ((seedsAlike_beginEdge i s s' _ _).mpr halike)
  obtain ⟨t, hrun, hgen, hem⟩ := run_seed_draws n m s u rest ((step_presented s i _ hr hh).trans hu) hs
  obtain ⟨t', hrun', hgen', hem'⟩ := run_seed_draws n m s' u' rest' ((step_presented s' i _ hr' hh').trans hu') hs'
  have hsame : t.gen = t'.gen := hgen.trans hgen'.symm
  exact ⟨t, t', genWords n (m, 624), hrun, hrun', genWords_length n _, hem, hem',
    congrArg Prod.fst hsame, congrArg Prod.snd hsame⟩

end Sys2Proof.Machine
end

section
/-! PROOFS. State (10_state.md): what a step may do to the architectural tuple, said once by `step_effect`; the closed
lists of writers and the invariants of the tuple, read off from it; the twist word by word, and that neither it nor a
seeding command leaves the degenerate register file; the values at reset and the status register. -/

namespace Sys2Proof.Machine

open Sys2Proof.Claims

/-! The architectural tuple. -/

/-- The registers of R20 to R30. -/
structure Arch where
  mt : RegFile
  idx : Position
  init : Bool
  fault : Bool
  cause : Cause
  res : Word

/-- The architectural tuple of a state. -/
def State.arch (s : State) : Arch := ⟨s.mt, s.idx, s.init, s.fault, s.cause, s.res⟩

/-! Everything a step may do to the architectural tuple. -/

/-- `m` is the register file that some seeding command fills over `old` (R100, R112 to R115). -/
def SeedingFill (old m : RegFile) : Prop :=
  (∃ seed, m = seedFill seed old) ∨ ∃ len keys, m = arrayFill len keys old

/-- The step may complete a seeding command: one just accepted, or the `SEEDA` that waited. -/
def MaySeed (s : State) : Prop :=
  (∃ seed, Accepts s (.seeds seed)) ∨ (∃ len, len ≠ 0 ∧ Accepts s (.seeda len)) ∨ ∃ run, s.busy = some run

/-- The step from `s` to `t` gives no result (R77). -/
def Silent (s t : State) : Prop := t.emitted = s.emitted ∧ t.resValid = false

/-- What a step from `s` to `t` may do to the architectural tuple and to the result port. -/
inductive StepEffect (s t : State) : Prop where
  /-- No command completes. -/
  | kept (silent : Silent s t) (arch : t.arch = s.arch)
  /-- A fault is entered (R174). -/
  | faulted (c : Cause) (cause : c ≠ .none) (silent : Silent s t)
      (arch : t.arch = { s.arch with fault := true, cause := c })
  /-- A seeding command completes (R100, R116). -/
  | seeded (m : RegFile) (fill : SeedingFill s.mt m) (may : MaySeed s) (busy : t.busy = none) (silent : Silent s t)
      (arch : t.arch = { s.arch with mt := m, idx := 624, init := true })
  /-- `NEXT` draws a pending word (R133). -/
  | drew (accepts : Accepts s .next) (init : s.init = true) (pending : s.idx.toNat < 624)
      (arch : t.arch = { s.arch with idx := s.idx + 1, res := temper (RegFile.get s.mt s.idx.toNat) })
  /-- `NEXT` twists, then draws the first word (R130). -/
  | twisted (accepts : Accepts s .next) (init : s.init = true) (exhausted : 624 ≤ s.idx.toNat)
      (arch : t.arch = { s.arch with mt := twist s.mt, idx := 1, res := temper (RegFile.get (twist s.mt) 0) })
  /-- The step is made in reset, or enters it (R200). -/
  | reset (edge : ResetEdge s) (silent : Silent s t) (arch : t.arch = State.reset.arch)

/-- `e` is `s` at the beginning of its next edge, after the host may have written its key memory. -/
structure EdgeBegun (s e : State) : Prop where
  arch : e.arch = s.arch
  busy : e.busy = s.busy
  rst : e.rst = s.rst
  silent : Silent s e

theorem edgeBegun_beginEdge (s : State) (rest : List HostAction) : EdgeBegun s (s.beginEdge rest) :=
  ⟨rfl, rfl, rfl, rfl, rfl⟩

theorem edgeBegun_writeKey (s : State) (rest : List HostAction) (j w : Word) :
    EdgeBegun s ((s.beginEdge rest).writeKey j w) :=
  ⟨rfl, rfl, rfl, rfl, rfl⟩

/-- Running a `SEEDA` keeps the tuple while it waits and seeds the engine when it completes (R58, R78). -/
theorem EdgeBegun.runSeeda_effect {s e : State} (h : EdgeBegun s e) (run : SeedaRun) (may : MaySeed s) :
    StepEffect s (e.runSeeda run) := by
  have hmt : e.mt = s.mt := congrArg Arch.mt h.arch
  rcases e.runSeeda_cases run with ⟨-, heq⟩ | ⟨-, heq⟩ <;> rw [heq]
  · exact .seeded _ (.inr ⟨_, _, congrArg (arrayFill _ _) hmt⟩) may rfl h.silent (by rw [← h.arch]; rfl)
  · exact .kept h.silent h.arch

/-- An edge at which no command is accepted. -/
theorem EdgeBegun.hold_effect {s e : State} (h : EdgeBegun s e) : StepEffect s e.hold := by
  rcases e.hold_cases with ⟨hrst, heq⟩ | ⟨-, run, hbusy, heq⟩ | ⟨-, -, heq⟩ <;> rw [heq]
  · exact .reset (.inl (h.rst ▸ hrst)) ⟨h.silent.1, rfl⟩ rfl
  · exact h.runSeeda_effect run (.inr (.inr ⟨run, h.busy ▸ hbusy⟩))
  · exact .kept h.silent h.arch

/-- An edge at which the host drives `rst` (R200). -/
theorem applyRst_effect (s : State) (rest : List HostAction) (level : Bool)
    (hp : s.Performs (.setRst level) rest) : StepEffect s ((s.beginEdge rest).applyRst level) := by
  rcases (s.beginEdge rest).applyRst_cases level with ⟨rfl, heq⟩ | ⟨-, hrst, heq⟩ | ⟨-, -, heq⟩ <;> rw [heq]
  · exact .reset (.inr ⟨rest, hp⟩) ⟨rfl, rfl⟩ rfl
  · exact .reset (.inl hrst) ⟨rfl, rfl⟩ rfl
  · exact (edgeBegun_beginEdge s rest).hold_effect

/-- An accepted command. -/
theorem exec_effect (i : Instr) (s t : State) (rest : List HostAction) (ha : Accepts s i)
    (h : exec i (s.beginEdge rest) = .next t) : StepEffect s t := by
  have hbegun := edgeBegun_beginEdge s rest
  have hbusy : s.busy = none := (s.cmdReady_iff.mp ha.1).2.1
  cases i with
  | seeds seed =>
    rw [exec_seeds] at h
    obtain rfl := Host.Outcome.next.inj h
    exact .seeded _ (.inl ⟨seed, rfl⟩) (.inl ⟨seed, ha⟩) hbusy hbegun.silent rfl
  | seeda len =>
    by_cases hlen : len = 0
    · subst hlen
      rw [exec_seeda_zero] at h
      obtain rfl := Host.Outcome.next.inj h
      exact .faulted .zeroLengthKey (by decide) hbegun.silent rfl
    · rw [exec_seeda _ _ hlen] at h
      obtain rfl := Host.Outcome.next.inj h
      exact hbegun.runSeeda_effect _ (.inr (.inl ⟨len, hlen, ha⟩))
  | next =>
    rcases execNext_cases (s.beginEdge rest) with ⟨-, heq⟩ | ⟨hinit, hidx, heq⟩ | ⟨hinit, hidx, heq⟩ <;>
      obtain rfl := Host.Outcome.next.inj (heq.symm.trans h)
    · exact .faulted .notInitialised (by decide) hbegun.silent rfl
    · exact .drew ha hinit hidx rfl
    · exact .twisted ha hinit hidx rfl

/-- A word that decodes to a command is that command's encoding (R72, R76). -/
theorem encode_of_decode (cw : CmdWord) (i : Instr) (h : decode cw = .command i) : encode i = cw := by
  have hjoin := Laws.Fields.joinFields_fields cw
  unfold decode at h
  split_ifs at h with hseeds hseeda hnext harg <;> obtain rfl := Decoded.command.inj h
  · rwa [hseeds] at hjoin
  · rwa [hseeda] at hjoin
  · rwa [hnext, harg] at hjoin

/-- Everything a step may do to the architectural tuple. -/
theorem step_effect (s t : State) (h : step s = .next t) : StepEffect s t := by
  obtain ⟨a, rest, hp, hcases⟩ := step_cases s t h
  rcases hcases with ⟨cw, i, rfl, hr, hd, hexec⟩ | ⟨cw, why, -, -, -, rfl⟩ | ⟨-, rfl⟩ | ⟨j, w, -, rfl⟩ | ⟨level, rfl, rfl⟩
  · rw [← encode_of_decode cw i hd] at hp
    exact exec_effect i s t rest ⟨hr, rest, hp⟩ hexec
  · exact .faulted .illegalCommand (by decide) ⟨rfl, rfl⟩ rfl
  · exact (edgeBegun_beginEdge s rest).hold_effect
  · exact (edgeBegun_writeKey s rest j w).hold_effect
  · exact applyRst_effect s rest level hp

/-! The closed lists of writers. -/

/-- The step that accepts a command is that command's (R75). -/
theorem step_of_accepts (s : State) (i : Instr) (h : Accepts s i) : ∃ rest, step s = exec i (s.beginEdge rest) := by
  obtain ⟨hr, rest, hp⟩ := h
  exact ⟨rest, by simp [step_eq_edge s _ rest hp, edge, accept, State.beginEdge_cmdReady, hr, decode_encode]⟩

/-- Settles O28: an accepted `NEXT` on a seeded engine delivers a word; every other effect is silent and leaves `RES`
alone, but for reset. -/
theorem resultsComeFromNextAlone : Obligations.ResultsComeFromNextAlone := by
  intro s t h
  by_cases hd : Accepts s .next ∧ s.init = true
  · obtain ⟨rest, hstep⟩ := step_of_accepts s .next hd.1
    rw [h, exec_next_seeded (s.beginEdge rest) hd.2] at hstep
    obtain rfl := Host.Outcome.next.inj hstep
    exact .inl ⟨hd.1, hd.2, rfl, rfl⟩
  · refine .inr ⟨hd, ?_⟩
    cases step_effect s t h with
    | kept silent arch => exact ⟨silent.1, silent.2, .inl (congrArg Arch.res arch)⟩
    | faulted c _ silent arch => exact ⟨silent.1, silent.2, .inl (congrArg Arch.res arch)⟩
    | seeded m _ _ _ silent arch => exact ⟨silent.1, silent.2, .inl (congrArg Arch.res arch)⟩
    | drew accepts init => exact absurd ⟨accepts, init⟩ hd
    | twisted accepts init => exact absurd ⟨accepts, init⟩ hd
    | reset edge silent arch => exact ⟨silent.1, silent.2, .inr ⟨edge, congrArg Arch.res arch⟩⟩

/-- A pending position counts up without wrapping (R23). -/
theorem position_succ (i : Position) (h : i.toNat < 624) : (i + 1).toNat = i.toNat + 1 := by
  rw [BitVec.toNat_add_of_lt] <;> simp; omega

/-- Settles O29: each effect of a step is one of the five cases. -/
theorem generatorStateWriters : Obligations.GeneratorStateWriters := by
  intro s t h
  cases step_effect s t h with
  | kept _ arch => exact .inl ⟨congrArg Arch.mt arch, congrArg Arch.idx arch⟩
  | faulted c _ _ arch => exact .inl ⟨congrArg Arch.mt arch, congrArg Arch.idx arch⟩
  | seeded m _ may busy _ arch =>
    exact .inr (.inl ⟨may, congrArg Arch.idx arch, congrArg Arch.init arch, busy⟩)
  | drew accepts init pending arch =>
    have hidx : t.idx = s.idx + 1 := congrArg Arch.idx arch
    exact .inr (.inr (.inl ⟨accepts, init, pending, congrArg Arch.mt arch, hidx ▸ position_succ _ pending⟩))
  | twisted accepts init exhausted arch =>
    exact .inr (.inr (.inr (.inl
      ⟨accepts, init, exhausted, congrArg Arch.mt arch, congrArg Arch.idx arch⟩)))
  | reset edge _ arch =>
    exact .inr (.inr (.inr (.inr ⟨edge, congrArg Arch.mt arch, congrArg Arch.idx arch⟩)))

/-! Invariants of the tuple. -/

/-- Settles O39: `IDX` counts up only from below 624, and is otherwise kept or set to 624, 1 or 0. -/
theorem positionStaysInRange : Obligations.PositionStaysInRange := by
  intro s t hs h
  rcases generatorStateWriters s t h with ⟨-, hidx⟩ | ⟨-, hidx, -⟩ | ⟨-, -, hlt, -, hidx⟩ | ⟨-, -, -, -, hidx⟩ |
    ⟨-, -, hidx⟩ <;> rw [State.PositionInRange, hidx]
  · exact hs
  · decide
  · exact hlt
  · decide
  · decide

/-- Settles O40: fault entry sets `FAULT` with a cause, reset clears both, and nothing else writes either. -/
theorem causeKeepsTellingFault : Obligations.CauseKeepsTellingFault := by
  intro s t hs h
  have hkept (hf : t.fault = s.fault) (hc : t.cause = s.cause) : t.CauseTellsFault := by
    rwa [State.CauseTellsFault, hf, hc]
  cases step_effect s t h with
  | kept _ arch => exact hkept (congrArg Arch.fault arch) (congrArg Arch.cause arch)
  | seeded _ _ _ _ _ arch => exact hkept (congrArg Arch.fault arch) (congrArg Arch.cause arch)
  | drew _ _ _ arch => exact hkept (congrArg Arch.fault arch) (congrArg Arch.cause arch)
  | twisted _ _ _ arch => exact hkept (congrArg Arch.fault arch) (congrArg Arch.cause arch)
  | faulted c hc _ arch =>
    have hfault : t.fault = true := congrArg Arch.fault arch
    have hcause : t.cause = c := congrArg Arch.cause arch
    simp [State.CauseTellsFault, hfault, hcause, hc]
  | reset _ _ arch => exact iff_of_true (congrArg Arch.cause arch) (congrArg Arch.fault arch)

/-- Settles O42: what writes `MT`, `IDX` or `RES` and is not reset sets `INIT` or needs it set. -/
theorem unseededStaysZero : Obligations.UnseededStaysZero := by
  intro s t hs h ht
  have hkept (hm : t.mt = s.mt) (hx : t.idx = s.idx) (hi : t.init = s.init) (hr : t.res = s.res) :
      t.mt = Vector.replicate 624 0 ∧ t.idx = 0 ∧ t.res = 0 := by
    rw [hm, hx, hr]; exact hs (hi ▸ ht)
  cases step_effect s t h with
  | kept _ arch =>
    exact hkept (congrArg Arch.mt arch) (congrArg Arch.idx arch) (congrArg Arch.init arch) (congrArg Arch.res arch)
  | faulted _ _ _ arch =>
    exact hkept (congrArg Arch.mt arch) (congrArg Arch.idx arch) (congrArg Arch.init arch) (congrArg Arch.res arch)
  | seeded _ _ _ _ _ arch => exact absurd (congrArg Arch.init arch) (ne_true_of_eq_false ht)
  | drew _ init _ arch => exact absurd ((congrArg Arch.init arch).trans init) (ne_true_of_eq_false ht)
  | twisted _ init _ arch => exact absurd ((congrArg Arch.init arch).trans init) (ne_true_of_eq_false ht)
  | reset _ _ arch => exact ⟨congrArg Arch.mt arch, congrArg Arch.idx arch, congrArg Arch.res arch⟩

/-! The twist, word by word (R131). -/

/-- The word that position `k` of the twist writes (R131), from the register file when its turn comes. -/
def twistedWord (k : Nat) (m : RegFile) : Word :=
  twistWord (RegFile.get m k) (RegFile.get m ((k + 1) % 624)) (RegFile.get m ((k + 397) % 624))

/-- The twist is a sweep: position `k` writes `MT[k]` alone. -/
theorem twist_eq_sweep (m : RegFile) :
    twist m = forUp (fun k m => RegFile.set m k (twistedWord k m)) 624 0 m := by
  unfold twist; rfl

/-- Before the turn of position `k`, the words from `k` on are still the old ones. -/
theorem partialTwist_get_old (m : RegFile) (k j : Nat) (h1 : k ≤ j) (h2 : j < 624) :
    RegFile.get (forUp (fun k m => RegFile.set m k (twistedWord k m)) k 0 m) j = RegFile.get m j :=
  sweep_get_outside _ k 0 m j h2 (by omega)

/-- Before the turn of position `k`, the words below `k` are the new ones already. -/
theorem partialTwist_get_new (m : RegFile) (k j : Nat) (h1 : j < k) (h2 : k < 624) :
    RegFile.get (forUp (fun k m => RegFile.set m k (twistedWord k m)) k 0 m) j = RegFile.get (twist m) j := by
  have hcut : 624 = k + (624 - k) := by omega
  rw [twist_eq_sweep, hcut, forUp_add, sweep_get_outside _ (624 - k) _ _ j (by omega) (by omega)]

/-- Each new word, from the old words above it and the new words below it. -/
theorem twist_get (m : RegFile) (k : Nat) (hk : k < 624) :
    RegFile.get (twist m) k =
      twistWord (RegFile.get m k) (if k = 623 then RegFile.get (twist m) 0 else RegFile.get m (k + 1))
        (if k < 227 then RegFile.get m (k + 397) else RegFile.get (twist m) (k - 227)) := by
  have hget := sweep_get_inside twistedWord 624 0 m k hk (by omega) (by omega)
  rw [← twist_eq_sweep, Nat.sub_zero] at hget
  rw [hget, twistedWord]
  congr 1
  · exact partialTwist_get_old m k k le_rfl hk
  · split_ifs with h
    · subst h; exact partialTwist_get_new m 623 0 (by omega) hk
    · rw [Nat.mod_eq_of_lt (by omega)]; exact partialTwist_get_old m k _ (by omega) (by omega)
  · split_ifs with h
    · rw [Nat.mod_eq_of_lt (by omega)]; exact partialTwist_get_old m k _ (by omega) (by omega)
    · rw [show (k + 397) % 624 = k - 227 by omega]; exact partialTwist_get_new m k _ (by omega) hk

/-- The model's tempering is that of R135. -/
theorem tempersTo_temper (y : Word) : TempersTo y (temper y) := ⟨_, _, _, rfl, rfl, rfl, rfl⟩

/-- Settles O24: word by word, by `twist_get`. -/
theorem nextTwistsWhenExhausted : Obligations.NextTwistsWhenExhausted := by
  intro s hi hx
  refine ⟨_, exec_next_exhausted s hi hx, fun k hk => ⟨_, rfl, twist_get s.mt k hk⟩, ?_, rfl⟩
  exact tempersTo_temper _

/-! The degenerate register file (R35). -/

/-- No bit that the twist reads is set: every word but `MT[0]` is zero, and bit 31 of `MT[0]`. -/
theorem RegFile.not_live_iff (m : RegFile) :
    ¬ m.Live ↔ RegFile.get m 0 &&& Config.upperMask = 0 ∧ ∀ i, 1 ≤ i → i < 624 → RegFile.get m i = 0 := by
  simp [RegFile.Live]

theorem RegFile.Live.ne_zero {m : RegFile} (h : m.Live) : m ≠ Vector.replicate 624 0 := by
  rintro rfl
  exact (RegFile.not_live_iff _).mpr ⟨by rw [RegFile.get_replicate]; rfl, fun i _ _ => RegFile.get_replicate i⟩ h

/-- The masks of R131 (a) cover a word. -/
theorem eq_zero_of_masks {x : Word} (hu : x &&& Config.upperMask = 0) (hl : x &&& Config.lowerMask = 0) : x = 0 := by
  have hall : Config.upperMask ||| Config.lowerMask = BitVec.allOnes 32 := by decide
  rw [← BitVec.and_allOnes (x := x), ← hall, BitVec.and_or_distrib_left, hu, hl]
  rfl

/-- `MATRIX_A` has bit 31 set and `y >> 1` has not, so no odd `y` cancels; and an even one is all in `y >> 1`. -/
theorem eq_zero_of_shift_xor_mag {y : Word} (h : (y >>> 1) ^^^ mag y = 0) : y = 0 := by
  have heq : y >>> 1 = mag y := BitVec.xor_eq_zero_iff.mp h
  have heven : y.getLsbD 0 = false := by
    by_contra hodd
    rw [mag, if_pos (by simpa using hodd)] at heq
    have h31 := congrArg (·.getLsbD 31) heq
    simp [Config.matrixA] at h31
  rw [mag, heven, if_neg Bool.false_ne_true] at heq
  refine BitVec.eq_of_getLsbD_eq fun i hi => ?_
  cases i with
  | zero => exact heven
  | succ i => simpa [Nat.add_comm] using congrArg (·.getLsbD i) heq

/-- A twisted word that comes out zero over a zero third operand had no bit to read. -/
theorem masks_of_twistWord_eq_zero {a b : Word} (h : twistWord a b 0 = 0) :
    a &&& Config.upperMask = 0 ∧ b &&& Config.lowerMask = 0 := by
  refine BitVec.or_eq_zero_iff.mp (eq_zero_of_shift_xor_mag ?_)
  simpa [twistWord, twistY] using h

/-- A position that the twist leaves zero over a zero third operand had no bit to read. -/
theorem masks_of_twist_get_eq_zero {m : RegFile} {k : Nat} (hk : k < 624) (hnew : RegFile.get (twist m) k = 0)
    (hthird : (if k < 227 then RegFile.get m (k + 397) else RegFile.get (twist m) (k - 227)) = 0) :
    RegFile.get m k &&& Config.upperMask = 0 ∧
      (if k = 623 then RegFile.get (twist m) 0 else RegFile.get m (k + 1)) &&& Config.lowerMask = 0 := by
  rw [twist_get m k hk, hthird] at hnew
  exact masks_of_twistWord_eq_zero hnew

/-- A twisted register file that is not live is all zero: the last position reads the low bits of the new `MT[0]`. -/
theorem twist_get_of_not_live {m : RegFile} (h : ¬ (twist m).Live) (k : Nat) (hk : k < 624) :
    RegFile.get (twist m) k = 0 := by
  obtain ⟨hupper, hnew⟩ := (RegFile.not_live_iff _).mp h
  rcases Nat.eq_zero_or_pos k with rfl | hpos
  · have hlast := masks_of_twist_get_eq_zero (m := m) (k := 623) (by omega) (hnew 623 (by omega) (by omega))
      (by rw [if_neg (by omega)]; exact hnew _ (by omega) (by omega))
    rw [if_pos rfl] at hlast
    exact eq_zero_of_masks hupper hlast.2
  · exact hnew k hpos hk

/-- The upper range (k >= 227) of a register file twisted to all zeros: its third operands are new words, so it read
nothing but zeros. -/
theorem upper_words_eq_zero {m : RegFile} (h : ∀ k, k < 624 → RegFile.get (twist m) k = 0) (k : Nat) (h1 : 228 ≤ k)
    (h2 : k < 624) : RegFile.get m k = 0 := by
  have hread (j : Nat) (hj1 : 227 ≤ j) (hj2 : j < 624) := masks_of_twist_get_eq_zero hj2 (h j hj2)
    (by rw [if_neg (by omega)]; exact h _ (by omega))
  have hbelow := (hread (k - 1) (by omega) (by omega)).2
  rw [if_neg (by omega), Nat.sub_add_cancel (by omega)] at hbelow
  exact eq_zero_of_masks (hread k (by omega) h2).1 hbelow

/-- The twist keeps a register file live, since it is one-to-one on the bits it reads. Where it wrote only zeros, the
upper range read only zeros; so the third operands of the lower range were zero too, and it read only zeros. -/
theorem twist_live {m : RegFile} (h : m.Live) : (twist m).Live := by
  by_contra hdead
  refine (RegFile.not_live_iff m).mpr ?_ h
  have hnew := twist_get_of_not_live hdead
  have hupper := upper_words_eq_zero hnew
  have hread (k : Nat) (hk : k < 228) := masks_of_twist_get_eq_zero (by omega) (hnew k (by omega))
    (by split_ifs; exacts [hupper _ (by omega) (by omega), hnew _ (by omega)])
  refine ⟨(hread 0 (by omega)).1, fun k h1 h2 => ?_⟩
  rcases Nat.lt_or_ge k 228 with hlt | hge
  · have hbelow := (hread (k - 1) (by omega)).2
    rw [if_neg (by omega), Nat.sub_add_cancel h1] at hbelow
    exact eq_zero_of_masks (hread k hlt).1 hbelow
  · exact hupper k hge h2

/-- The recurrence of R100 does not write two zeros in a row: after a zero `MT[1]` comes `MT[2]` = 2. -/
theorem seedFill_live (seed : Word) (m : RegFile) : (seedFill seed m).Live := by
  obtain ⟨-, hrec⟩ := seedFill_filledFrom seed m
  by_cases h1 : RegFile.get (seedFill seed m) 1 = 0
  · refine .inr ⟨2, by omega, by omega, ?_⟩
    rw [hrec 2 (by omega) (by omega), h1]
    decide
  · exact .inr ⟨1, by omega, by omega, h1⟩

/-- R115: `SEEDA` forces `MT[0]`. -/
theorem arrayFill_get_zero (len : Nat) (keys : List Word) (m : RegFile) :
    RegFile.get (arrayFill len keys m) 0 = Config.forcedWord0 := by
  unfold arrayFill
  exact RegFile.get_set_self _ 0 _ (by omega)

theorem arrayFill_live (len : Nat) (keys : List Word) (m : RegFile) : (arrayFill len keys m).Live := by
  refine .inl ?_
  rw [arrayFill_get_zero]
  decide

theorem SeedingFill.live {old m : RegFile} (h : SeedingFill old m) : m.Live := by
  rcases h with ⟨seed, rfl⟩ | ⟨len, keys, rfl⟩
  · exact seedFill_live seed old
  · exact arrayFill_live len keys old

/-- Settles O43: seeding reaches a live register file, the twist keeps it, and no other effect writes `MT` and leaves
`INIT` = 1. -/
theorem seededStaysLive : Obligations.SeededStaysLive := by
  intro s t hs h ht
  have hkept (hm : t.mt = s.mt) (hi : t.init = s.init) : t.mt.Live := hm ▸ hs (hi ▸ ht)
  cases step_effect s t h with
  | kept _ arch => exact hkept (congrArg Arch.mt arch) (congrArg Arch.init arch)
  | faulted _ _ _ arch => exact hkept (congrArg Arch.mt arch) (congrArg Arch.init arch)
  | drew _ _ _ arch => exact hkept (congrArg Arch.mt arch) (congrArg Arch.init arch)
  | seeded m fill _ _ _ arch =>
    have hm : t.mt = m := congrArg Arch.mt arch
    exact hm ▸ fill.live
  | twisted _ init _ arch =>
    have hm : t.mt = twist s.mt := congrArg Arch.mt arch
    exact hm ▸ twist_live (hs init)
  | reset _ _ arch => exact absurd ht (ne_true_of_eq_false (congrArg Arch.init arch))

/-- Each position of the twist writes a zero over the zero it reads. -/
theorem twist_zero : twist (Vector.replicate 624 0) = Vector.replicate 624 0 := by
  unfold twist
  refine forUp_induct _ (fun _ m => m = Vector.replicate 624 0) 624 0 _ rfl ?_
  rintro k m - - rfl
  refine RegFile.ext_get _ _ fun i hi => ?_
  have hword : twistWord 0 0 0 = 0 := by decide
  rw [twistStep, RegFile.get_set _ _ _ _ hi]
  simp only [RegFile.get_replicate, hword, ite_self]

/-- Settles O47: the zero register file is fixed by the twist, and what the seeding commands fill is live. -/
theorem zeroFileIsDegenerate : Obligations.ZeroFileIsDegenerate := by
  refine ⟨twist_zero, by decide, fun seed s => ?_, fun len s hlen hkeys => ?_⟩
  · have hlive := seedFill_live seed s.mt
    exact ⟨_, exec_seeds seed s, hlive.ne_zero, hlive⟩
  · rw [exec_seeda len s hlen, s.runSeeda_complete len hlen hkeys]
    have hlive := fun keys => arrayFill_live len.toNat keys s.mt
    exact ⟨_, rfl, (hlive _).ne_zero, hlive _⟩

/-! Idle edges, the status register, and the values at reset. -/

/-- An engine at its reset values is left alone by reset. -/
theorem State.enterReset_of_atReset (s : State) (h : s.AtReset) : s.enterReset = s := by
  obtain ⟨hmt, hidx, hinit, hfault, hcause, hres, hbusy, hvalid⟩ := h
  cases s
  simp_all [State.enterReset, State.reset]

/-- Settles O30: in reset the values are those of reset already, and a waiting `SEEDA` is answered nothing more. -/
theorem idleHoldsTheState : Obligations.IdleHoldsTheState := by
  intro s rest hwait hreset hp
  rw [step_eq_edge s _ rest hp]
  refine congrArg Host.Outcome.next ?_
  rcases (s.beginEdge rest).hold_cases with ⟨hrst, heq⟩ | ⟨-, run, hbusy, heq⟩ | ⟨-, -, heq⟩ <;> rw [heq]
  · obtain ⟨hmt, hidx, hinit, hfault, hcause, hres, hnone, -⟩ := hreset hrst
    exact State.enterReset_of_atReset _ ⟨hmt, hidx, hinit, hfault, hcause, hres, hnone, rfl⟩
  · obtain ⟨-, hlt, hread, -, -⟩ := hwait run hbusy
    exact State.runSeeda_still _ run hbusy hlt hread
  · rfl

/-- The fields of the status register (R29), over every cause and both flags. -/
theorem status_fields (c : Cause) (fault init : Bool) :
    (c.code ++ flagBit fault ++ flagBit init).getLsbD 0 = init ∧
      (c.code ++ flagBit fault ++ flagBit init).getLsbD 1 = fault ∧
      (c.code ++ flagBit fault ++ flagBit init).extractLsb' 2 2 = c.code := by
  cases c <;> cases fault <;> cases init <;> decide

/-- Settles O35: `State.status` is the three fields joined; the codes and the reset value are computed. -/
theorem statusShowsTheFlags : Obligations.StatusShowsTheFlags :=
  ⟨fun s => status_fields s.cause s.fault s.init, rfl, rfl, rfl, rfl, rfl⟩

theorem State.reset_atReset : State.reset.AtReset := ⟨rfl, rfl, rfl, rfl, rfl, rfl, rfl, rfl⟩

/-- Settles O37: the fields of `State.reset`. -/
theorem resetValues : Obligations.ResetValues := ⟨State.reset_atReset, rfl, rfl, rfl⟩

/-- Settles O38: at reset `IDX`, `CAUSE` and `FAULT` are zero, `INIT` and the pulse are 0, nothing waits and no key word is
written. -/
theorem invariantsHoldAtReset : Obligations.InvariantsHoldAtReset := by
  obtain ⟨hmt, hidx, hinit, hfault, hcause, hres, hbusy, hvalid⟩ := State.reset_atReset
  refine ⟨Nat.zero_le _, iff_of_true hcause hfault, fun _ => State.reset_atReset, fun _ => ⟨hmt, hidx, hres⟩,
    fun h => absurd h (ne_true_of_eq_false hinit), fun run h => ?_, fun h => absurd h (ne_true_of_eq_false hvalid),
    List.Pairwise.nil, fun p hp => absurd hp List.not_mem_nil⟩
  rw [hbusy] at h
  exact absurd h (Option.some_ne_none run).symm

end Sys2Proof.Machine
end

section
/-! PROOFS. Memory (20_memory.md): the key space is the host's, and what reads of it return and how often; the step that
accepts a command; a key word that comes late. -/

namespace Sys2Proof.Machine

open Sys2Proof.Claims

/-! Acceptance (R58, R75), and the two events that stop the machine. -/

/-- A reserved word decodes to no command (R74, R76). -/
theorem decode_reserved (cw : CmdWord) (h : opField cw = 0b00#2 ∨ (opField cw = 0b11#2 ∧ argField cw ≠ 0#32)) :
    ∃ why, decode cw = .illegal why := by
  rcases h with hop | ⟨hop, harg⟩
  · exact ⟨.opZero (argField cw), by simp [decode, hop]⟩
  · exact ⟨.nextArg (argField cw), by simp [decode, hop, harg]⟩

theorem accept_command (cw : CmdWord) (i : Instr) (s : State) (h : decode cw = .command i) :
    accept cw s = exec i s := by
  rw [accept, h]

theorem accept_illegal (cw : CmdWord) (why : Reserved) (s : State) (h : decode cw = .illegal why) :
    accept cw s = .next (s.raise .illegalCommand) := by
  rw [accept, h]

/-- Accepting a word answers a next state, whatever the word (R174, R176). -/
theorem accept_next (cw : CmdWord) (s : State) : ∃ t, accept cw s = .next t := by
  cases hd : decode cw with
  | command i => rw [accept_command cw i s hd]; exact exec_next i s
  | illegal why => exact ⟨_, accept_illegal cw why s hd⟩

/-- A ready engine accepts the word presented (R75). -/
theorem step_present_ready (s : State) (cw : CmdWord) (rest : List HostAction) (hr : s.cmdReady = true)
    (hh : s.host = .present cw :: rest) : step s = accept cw (s.beginEdge rest) := by
  rw [step_eq_edge s _ rest (.inl hh)]
  exact if_pos hr

/-- Settles O7: the step accepts the word, and the decoder tells a command from a reserved word. -/
theorem acceptedCommandExecutes : Obligations.AcceptedCommandExecutes := by
  intro s cw rest hh hr
  have hstep := step_present_ready s cw rest hr hh
  refine ⟨hstep, fun i hd => ?_, fun hres => ?_⟩
  · exact hstep.trans (accept_command cw i _ hd)
  · obtain ⟨why, hd⟩ := decode_reserved cw hres
    exact hstep.trans (accept_illegal cw why _ hd)

/-- Settles O13: of the host's actions, only two masters at a ready engine and the loss of power stop an edge. -/
theorem onlyOutsideEventsStop : Obligations.OnlyOutsideEventsStop := by
  intro s
  obtain ⟨a, rest, hp⟩ := s.performs_exists
  have hhost (ha : a ≠ .idle) : s.host = a :: rest := hp.resolve_right fun h => ha h.2.1
  rw [step_eq_edge s a rest hp]
  cases a with
  | idle => exact .inl ⟨_, rfl⟩
  | setKey j w => exact .inl ⟨_, rfl⟩
  | setRst level => exact .inl ⟨_, rfl⟩
  | losePower => exact .inr (.inr ⟨⟨rest, hhost (by simp)⟩, rfl⟩)
  | present cw =>
    refine .inl ?_
    by_cases hr : s.cmdReady = true
    · obtain ⟨t, ht⟩ := accept_next cw (s.beginEdge rest)
      exact ⟨t, (if_pos hr).trans ht⟩
    · exact ⟨_, if_neg hr⟩
  | contend cw1 cw2 =>
    by_cases hr : s.cmdReady = true
    · exact .inr (.inl ⟨hr, ⟨cw1, cw2, rest, hhost (by simp)⟩, if_pos hr⟩)
    · exact .inl ⟨_, if_neg hr⟩

/-! Key memory is the host's (R50, R51). -/

/-- Settles O33: a read after a write of key memory, which is the only field that the host's write reaches. -/
theorem keyMemoryReadsBack : Obligations.KeyMemoryReadsBack := by
  refine fun s j w => ⟨?_, fun k hk => ?_, rfl⟩
  · rw [State.writeKey_keyMem, KeyMem.read_write, if_pos rfl]
  · rw [State.writeKey_keyMem, KeyMem.read_write, if_neg (Ne.symm hk)]

@[simp] theorem State.runSeeda_keyMem (s : State) (run : SeedaRun) : (s.runSeeda run).keyMem = s.keyMem := by
  obtain ⟨-, -, -, -, -, hkept, -⟩ := s.runSeeda_frame run
  exact hkept

@[simp] theorem State.hold_keyMem (s : State) : s.hold.keyMem = s.keyMem := by
  rcases s.hold_cases with ⟨-, h⟩ | ⟨-, run, -, h⟩ | ⟨-, -, h⟩ <;> rw [h]
  · rfl
  · exact s.runSeeda_keyMem run

@[simp] theorem State.applyRst_keyMem (s : State) (level : Bool) : (s.applyRst level).keyMem = s.keyMem := by
  rcases s.applyRst_cases level with ⟨-, h⟩ | ⟨-, -, h⟩ | ⟨-, -, h⟩ <;> rw [h]
  · rfl
  · rfl
  · exact s.hold_keyMem

/-- No command writes the key space (R50). -/
theorem exec_keyMem (i : Instr) (s t : State) (h : exec i s = .next t) : t.keyMem = s.keyMem := by
  cases i with
  | seeds seed => obtain rfl := Host.Outcome.next.inj h; rfl
  | seeda len =>
    by_cases hlen : len = 0
    · subst hlen; obtain rfl := Host.Outcome.next.inj h; rfl
    · rw [exec_seeda len s hlen] at h
      obtain rfl := Host.Outcome.next.inj h
      exact s.runSeeda_keyMem _
  | next =>
    rcases execNext_cases s with ⟨-, heq⟩ | ⟨-, -, heq⟩ | ⟨-, -, heq⟩ <;>
      obtain rfl := Host.Outcome.next.inj (heq.symm.trans h) <;> rfl

/-- A step keeps key memory, or is one at which the host writes a key word (R59). -/
theorem step_keyMem (s t : State) (h : step s = .next t) :
    t.keyMem = s.keyMem ∨
      ∃ (j w : Word) (rest : List HostAction), s.Performs (.setKey j w) rest ∧
        t.keyMem = KeyMem.write s.keyMem j.toNat w := by
  obtain ⟨a, rest, hp, hcases⟩ := step_cases s t h
  rcases hcases with ⟨cw, i, -, -, -, hexec⟩ | ⟨cw, why, -, -, -, rfl⟩ | ⟨-, rfl⟩ | ⟨j, w, rfl, rfl⟩ |
    ⟨level, -, rfl⟩
  · exact .inl (exec_keyMem i (s.beginEdge rest) t hexec)
  · exact .inl rfl
  · exact .inl (State.hold_keyMem _)
  · exact .inr ⟨j, w, rest, hp, State.hold_keyMem _⟩
  · exact .inl (State.applyRst_keyMem _ level)

/-- Settles O34: by `exec_keyMem` for a command, by `step_keyMem` for a step. -/
theorem engineNeverWritesKeys : Obligations.EngineNeverWritesKeys := by
  refine ⟨fun i s => ?_, fun s t h hne => (step_keyMem s t h).resolve_left hne⟩
  obtain ⟨t, ht⟩ := exec_next i s
  exact ⟨t, ht, exec_keyMem i s t ht⟩

/-- Settles O46: key memory is kept, or written by the host at a 32-bit index. -/
theorem keyMemoryStaysCanonical : Obligations.KeyMemoryStaysCanonical := by
  intro s t hwf h
  rcases step_keyMem s t h with heq | ⟨j, w, -, -, heq⟩ <;> rw [heq]
  · exact hwf
  · exact KeyMem.write_wf _ _ _ j.isLt hwf

/-! A key word that comes late (R63, R78). -/

theorem State.hold_idle (s : State) (hrst : s.rst = false) (hbusy : s.busy = none) : s.hold = s := by
  simp [State.hold, hrst, hbusy]

theorem State.hold_waiting (s : State) (run : SeedaRun) (hrst : s.rst = false) (hbusy : s.busy = some run) :
    s.hold = s.runSeeda run := by
  simp [State.hold, hrst, hbusy]

/-- Running a `SEEDA` neither reads nor writes what a new edge changes. -/
theorem State.runSeeda_beginEdge (s : State) (run : SeedaRun) (rest : List HostAction) :
    (s.beginEdge rest).runSeeda run = (s.runSeeda run).beginEdge rest := by
  unfold State.runSeeda
  dsimp only [State.beginEdge_keyMem, State.beginEdge_mt]
  split_ifs <;> rfl

/-- Writing a key word that was not answered leaves every answer as it was. -/
theorem KeyMem.read_write_of_read (m : KeyMem) (j k : Nat) (v w : Word) (hj : KeyMem.read m j = none)
    (hk : KeyMem.read m k = some v) : KeyMem.read (KeyMem.write m j w) k = some v := by
  have hne : j ≠ k := by rintro rfl; simp [hj] at hk
  rw [KeyMem.read_write, if_neg hne, hk]

/-- The edge at which the host writes a key word not answered before, after a `SEEDA` has run: what running it with the
word in place gives. -/
theorem State.runSeeda_writeKey_hold (s : State) (run : SeedaRun) (j w : Word) (hrst : s.rst = false)
    (hj : KeyMem.read s.keyMem j.toNat = none) :
    ((s.runSeeda run).writeKey j w).hold = (s.writeKey j w).runSeeda run := by
  have hres := s.runSeeda_resume run (KeyMem.write s.keyMem j.toNat w)
    fun k v hk => KeyMem.read_write_of_read _ _ _ _ _ hj hk
  have hmem : (s.runSeeda run).writeKey j w =
      { s.runSeeda run with keyMem := KeyMem.write s.keyMem j.toNat w } := by
    rw [State.writeKey, State.runSeeda_keyMem]
  have hrst' : ((s.runSeeda run).writeKey j w).rst = false := by
    obtain ⟨-, -, -, hkept, -⟩ := s.runSeeda_frame run
    exact hkept.trans hrst
  cases hbusy : (s.runSeeda run).busy with
  | none =>
    rw [hbusy] at hres
    rw [State.hold_idle _ hrst' hbusy, hmem]
    exact hres
  | some run' =>
    rw [hbusy] at hres
    rw [State.hold_waiting _ run' hrst' hbusy, hmem]
    exact hres

/-- Settles O22: `L` = 0 faults alike before and after the write, and any other `SEEDA` goes on from where it waits. -/
theorem lateKeyWordEqualsEarly : Obligations.LateKeyWordEqualsEarly := by
  intro len j w s t rest hrst hbusy hj ht
  have hstep : step { t with host := .setKey j w :: rest } = .next ((t.beginEdge rest).writeKey j w).hold :=
    step_eq_edge _ (.setKey j w) rest (.inl rfl)
  have hearly : { s with keyMem := KeyMem.write s.keyMem j.toNat w, host := rest, resValid := false } =
      (s.beginEdge rest).writeKey j w := rfl
  rw [hstep, hearly]
  by_cases hlen : len = 0
  · subst hlen
    rw [exec_seeda_zero] at ht ⊢
    obtain rfl := Host.Outcome.next.inj ht
    exact congrArg Host.Outcome.next
      (State.hold_idle (((s.raise .zeroLengthKey).beginEdge rest).writeKey j w) hrst hbusy)
  · rw [exec_seeda len _ hlen] at ht ⊢
    obtain rfl := Host.Outcome.next.inj ht
    rw [← State.runSeeda_beginEdge, (s.beginEdge rest).runSeeda_writeKey_hold _ j w hrst hj]

/-! The order and the number of the key reads (R52). -/

/-- `zext_32` keeps counter values below 2^32 apart. -/
theorem zext32_inj {a b : Nat} (ha : a < 2 ^ 32) (hb : b < 2 ^ 32) : zext32 a = zext32 b ↔ a = b := by
  rw [zext32, zext32, ← BitVec.toNat_inj, BitVec.toNat_ofNat, BitVec.toNat_ofNat, Nat.mod_eq_of_lt ha,
    Nat.mod_eq_of_lt hb]

theorem readIndices_length (len count n : Nat) : (readIndices len count n).length = count := by
  rw [readIndices_eq_map, List.length_map, List.length_range']

/-- Read `n` is of key index `n` mod `L`. -/
theorem readIndices_getElem? (len count n : Nat) (h : n < count) :
    (readIndices len count 0)[n]? = some (zext32 (n % len)) := by
  simp [readIndices_eq_map, h]

/-- Key index `j` is read as often as a read number is congruent to it. -/
theorem readIndices_count (len count j : Nat) (hlen : len < 2 ^ 32) (hj : j < len) :
    (readIndices len count 0).count (zext32 j) = count.count (· ≡ j [MOD len]) := by
  rw [readIndices_eq_map, ← List.range_eq_range', List.count, List.countP_map, Nat.count]
  refine List.countP_congr fun k _ => ?_
  have hk : k % len < len := Nat.mod_lt k (by omega)
  simp only [Function.comp_apply, beq_iff_eq, decide_eq_true_iff]
  rw [zext32_inj (by omega) (by omega), Nat.ModEq, Nat.mod_eq_of_lt hj]

/-- Of the numbers below `n`, those congruent to `j` modulo `d` are ceil((n - j) / d). -/
theorem count_modEq_eq_ceilDiv (n d j : Nat) (hj : j < d) (hn : j ≤ n) :
    n.count (· ≡ j [MOD d]) = (n - j + (d - 1)) / d := by
  rw [Nat.count_modEq_card n (by omega) j, Nat.mod_eq_of_lt hj]
  have hdiv : n / d * d + n % d = n := Nat.div_add_mod' n d
  have hmod : n % d < d := Nat.mod_lt n (by omega)
  split_ifs with h <;> refine (Nat.div_eq_of_lt_le ?_ ?_).symm <;> simp only [Nat.add_mul, Nat.one_mul] <;> omega

/-- The number of reads of key index `j` (R52): one where `L` >= 624 reads run through the key once. -/
theorem count_modEq_total (len j : Nat) (hj : j < len) :
    (max 624 len).count (· ≡ j [MOD len]) = if 624 ≤ len then 1 else (624 - j + (len - 1)) / len := by
  rw [count_modEq_eq_ceilDiv _ _ _ hj (by omega)]
  split_ifs with h
  · rw [max_eq_right h]
    exact Nat.div_eq_of_lt_le (by omega) (by omega)
  · rw [max_eq_left (by omega)]

/-- A `SEEDA` whose key words are answered records its max(624, `L`) reads (R52). -/
theorem exec_seeda_keyReads (len : Word) (s : State) (hlen : len ≠ 0) (hk : KeysAnswered s len) :
    ∃ t, exec (.seeda len) s = .next t ∧
      t.keyReads = s.keyReads ++ readIndices len.toNat (max 624 len.toNat) 0 := by
  rw [exec_seeda len s hlen, s.runSeeda_complete len hlen hk]
  exact ⟨_, rfl, rfl⟩

/-- `NEXT` reads no key word, whether it faults or draws. -/
theorem exec_next_keyReads (s : State) : ∃ t, exec .next s = .next t ∧ t.keyReads = s.keyReads := by
  rcases execNext_cases s with ⟨-, h⟩ | ⟨-, -, h⟩ | ⟨-, -, h⟩ <;> exact ⟨_, h, rfl⟩

/-- Settles O18: the reads of a `SEEDA` are `readIndices`; the other commands leave the record alone. -/
theorem keyReadsInOrder : Obligations.KeyReadsInOrder := by
  refine ⟨fun len s hlen hk => ?_, fun seed s => ⟨_, exec_seeds seed s, rfl⟩, exec_next_keyReads,
    fun s => ⟨_, exec_seeda_zero s, rfl⟩⟩
  obtain ⟨t, ht, hreads⟩ := exec_seeda_keyReads len s hlen hk
  refine ⟨t, _, ht, hreads, readIndices_length _ _ _, readIndices_getElem? _ _, fun j hj => ?_⟩
  exact (readIndices_count _ _ j len.isLt hj).trans (count_modEq_total _ j hj)

end Sys2Proof.Machine
end

section
/-! PROOFS. Encoding (30_encoding.md): the decoder and the encoder are inverse, and what follows for the classes of
command words, their number and the lines of a program; when a word is accepted (R75); where a `SEEDA` waits and how
long (R78); the pulse that marks a result (R77). -/

namespace Sys2Proof.Machine

open Sys2Proof.Claims

/-! Decoding and encoding (R71 to R76). -/

theorem Instr.wellFormed_eq_true (i : Instr) : i.wellFormed = true := by
  cases i <;> rfl

/-- A word decodes to the command whose encoding it is, and to no other (R76). -/
theorem decode_eq_command_iff (cw : CmdWord) (i : Instr) : decode cw = .command i ↔ encode i = cw :=
  ⟨encode_of_decode cw i, fun h => h ▸ decode_encode i⟩

/-- Settles O2: `encode_of_decode` one way, `decode_encode` the other; every command is well formed. -/
theorem decodeEncodeAgree : Obligations.DecodeEncodeAgree := by
  intro cw i
  rw [decode_eq_command_iff, Instr.wellFormed_eq_true, eq_self_iff_true, true_and]

/-- A word is the one with two given fields when these are its fields (R71). -/
theorem joinFields_eq_iff_fields (op : BitVec 2) (arg : Word) (cw : CmdWord) :
    joinFields op arg = cw ↔ opField cw = op ∧ argField cw = arg := by
  constructor
  · rintro rfl
    exact ⟨Laws.Fields.opField_joinFields op arg, Laws.Fields.argField_joinFields op arg⟩
  · rintro ⟨rfl, rfl⟩
    exact Laws.Fields.joinFields_fields cw

/-- The reserved words with `op` = 00 (R74). -/
theorem decode_eq_opZero_iff (cw : CmdWord) (arg : Word) :
    decode cw = .illegal (.opZero arg) ↔ joinFields 0b00#2 arg = cw := by
  rw [joinFields_eq_iff_fields, decode]
  split_ifs with hseeds hseeda hnext harg
  · simp [hseeds]
  · simp [hseeda]
  · simp [hnext]
  · simp [hnext]
  · have hop : opField cw = 0b00#2 := by bv_omega
    simp [hop]

/-- The reserved words with `op` = 11 (R74). -/
theorem decode_eq_nextArg_iff (cw : CmdWord) (arg : Word) :
    decode cw = .illegal (.nextArg arg) ↔ arg ≠ 0 ∧ joinFields 0b11#2 arg = cw := by
  rw [joinFields_eq_iff_fields, decode]
  split_ifs with hseeds hseeda hnext harg
  · simp [hseeds]
  · simp [hseeda]
  · refine iff_of_false (by simp) ?_
    rintro ⟨hne, -, rfl⟩
    exact hne harg
  · simp only [hnext, true_and, Decoded.illegal.injEq, Reserved.nextArg.injEq]
    exact ⟨fun h => ⟨h ▸ harg, h⟩, And.right⟩
  · simp [hnext]

/-- A word is the one with two given fields when its number is theirs (R71). -/
theorem joinFields_eq_iff_toNat (op : BitVec 2) (arg : Word) (cw : CmdWord) :
    joinFields op arg = cw ↔ cw.toNat = op.toNat * 2 ^ 32 + arg.toNat := by
  rw [← BitVec.toNat_inj, Laws.Fields.joinFields_toNat, eq_comm]

/-- Settles O3: each class is the words with an opcode and an operand, whose numbers `joinFields_eq_iff_toNat` gives. -/
theorem commandWordClasses : Obligations.CommandWordClasses := by
  intro cw
  refine ⟨fun seed => ?_, fun len => ?_, ?_, fun arg => ?_, fun arg => ?_⟩
  · exact (decode_eq_command_iff cw (.seeds seed)).trans (joinFields_eq_iff_toNat 0b01#2 seed cw)
  · exact (decode_eq_command_iff cw (.seeda len)).trans (joinFields_eq_iff_toNat 0b10#2 len cw)
  · exact (decode_eq_command_iff cw .next).trans (joinFields_eq_iff_toNat 0b11#2 0 cw)
  · rw [decode_eq_opZero_iff, joinFields_eq_iff_toNat, BitVec.toNat_ofNat, Nat.zero_mod, Nat.zero_mul, Nat.zero_add]
  · rw [decode_eq_nextArg_iff]
    exact and_congr_right fun _ => joinFields_eq_iff_toNat 0b11#2 arg cw

/-- Settles O1: twelve closed words, which the decoder computes. -/
theorem workedWordsDecode : Obligations.WorkedWordsDecode := by
  unfold Obligations.WorkedWordsDecode
  decide

/-! The number of commands (R74). -/

theorem encode_injective : Function.Injective encode := fun i j h =>
  Decoded.command.inj ((decode_encode i).symm.trans (h ▸ decode_encode j))

/-- The commands by their operands: `SEEDS` and `SEEDA` with a word each, and `NEXT`. -/
def instrEquiv : Instr ≃ Option (Word ⊕ Word) where
  toFun
    | .seeds seed => some (.inl seed)
    | .seeda len => some (.inr len)
    | .next => none
  invFun
    | some (.inl seed) => .seeds seed
    | some (.inr len) => .seeda len
    | none => .next
  left_inv i := by cases i <;> rfl
  right_inv
    | some (.inl _) => rfl
    | some (.inr _) => rfl
    | none => rfl

theorem card_instr : Nat.card Instr = 2 ^ 33 + 1 := by
  have hword : Nat.card Word = 2 ^ 32 := by
    rw [Nat.card_congr BitVec.equivFin.toEquiv, Nat.card_fin]
  have : Finite Word := Nat.finite_of_card_ne_zero (by rw [hword]; decide)
  rw [Nat.card_congr instrEquiv, Finite.card_option, Nat.card_sum, hword]
  norm_num

/-- Settles O4: the words that decode to a command are the encodings, one for each command. -/
theorem commandWordsCounted : Obligations.CommandWordsCounted := by
  have hrange : {cw : CmdWord | ∃ i, decode cw = .command i} = Set.range encode :=
    Set.ext fun cw => exists_congr fun i => decode_eq_command_iff cw i
  rw [Obligations.CommandWordsCounted, hrange, ← Nat.card_coe_set_eq,
    Nat.card_range_of_injective encode_injective, card_instr]

/-! What a line presents and writes (R81, R82). -/

theorem zext32_toNat {n : Nat} (h : n < 2 ^ 32) : (zext32 n).toNat = n :=
  (BitVec.toNat_ofNat n 32).trans (Nat.mod_eq_of_lt h)

theorem fitsWord_iff (n : Nat) : fitsWord n = true ↔ n < 2 ^ 32 := decide_eq_true_iff

theorem fitsKey_iff (words : List Nat) :
    fitsKey words = true ↔ (∀ w ∈ words, w < 2 ^ 32) ∧ words.length < 2 ^ 32 := by
  simp only [fitsKey, Bool.and_eq_true, List.all_eq_true, fitsWord_iff]

theorem encode_seeds_toNat {seed : Nat} (h : seed < 2 ^ 32) :
    (encode (.seeds (zext32 seed))).toNat = 0x100000000 + seed := by
  obtain ⟨hseeds, -⟩ := commandWordClasses (encode (.seeds (zext32 seed)))
  rw [(hseeds _).mp (decode_encode _), zext32_toNat h]

theorem encode_seeda_toNat {len : Nat} (h : len < 2 ^ 32) :
    (encode (.seeda (zext32 len))).toNat = 0x200000000 + len := by
  obtain ⟨-, hseeda, -⟩ := commandWordClasses (encode (.seeda (zext32 len)))
  rw [(hseeda _).mp (decode_encode _), zext32_toNat h]

/-- The writes of a list of key words: one per word, at consecutive indices. -/
theorem writeKeys_eq_mapIdx (j : Nat) (words : List Nat) :
    writeKeys j words = words.mapIdx fun k w => .setKey (zext32 (j + k)) (zext32 w) := by
  induction words generalizing j with
  | nil => rfl
  | cons w rest ih =>
    rw [writeKeys, ih, List.mapIdx_cons]
    simp only [Nat.add_zero, Nat.add_assoc, Nat.add_comm 1]

/-- The write of the `j`-th key word of a well-formed list. -/
theorem writeKeys_getElem? (words : List Nat) (hfits : fitsKey words = true) (j : Nat) (hj : j < words.length) :
    ∃ i w : Word, (writeKeys 0 words)[j]? = some (.setKey i w) ∧ i.toNat = j ∧ words[j]? = some w.toNat := by
  obtain ⟨hwords, hlen⟩ := (fitsKey_iff words).mp hfits
  refine ⟨zext32 j, zext32 words[j], ?_, zext32_toNat (by omega), ?_⟩
  · rw [writeKeys_eq_mapIdx, List.getElem?_mapIdx, List.getElem?_eq_getElem hj, Option.map_some, Nat.zero_add]
  · rw [zext32_toNat (hwords _ (List.getElem_mem hj)), List.getElem?_eq_getElem hj]

/-- Settles O6: the numbers of the encodings for the commands, `writeKeys_getElem?` for the key words. -/
theorem linesPresentTheirWords : Obligations.LinesPresentTheirWords := by
  refine ⟨fun seed h => ?_, fun len h => ?_, fun raw h => ?_, fun n => ?_, fun words h => ?_, fun words h => ?_,
    fun _ _ _ _ => rfl⟩
  · exact ⟨_, rfl, encode_seeds_toNat ((fitsWord_iff seed).mp h)⟩
  · exact ⟨_, rfl, encode_seeda_toNat ((fitsWord_iff len).mp h)⟩
  · exact ⟨_, rfl, (BitVec.toNat_ofNat raw 34).trans (Nat.mod_eq_of_lt (decide_eq_true_iff.mp h))⟩
  · exact List.flatten_replicate_singleton.symm
  · refine ⟨?_, writeKeys_getElem? words h⟩
    rw [assembleLine, writeKeys_eq_mapIdx, List.length_mapIdx]
  · exact ⟨_, rfl, encode_seeda_toNat ((fitsKey_iff words).mp h).2⟩

/-- Settles O5: the lines are computed; the three words that fault decode to `SEEDA 0` and to reserved patterns. -/
theorem workedLinesEncode : Obligations.WorkedLinesEncode := by
  refine ⟨by decide, by decide, by decide, by decide, by decide, by decide, by decide, fun s => ?_, by decide,
    by decide, fun s => ?_, fun s => ?_⟩
  · exact (accept_command _ (.seeda 0) s (by decide)).trans (exec_seeda_zero s)
  · exact accept_illegal _ (.opZero 0) s (by decide)
  · exact accept_illegal _ (.nextArg 1) s (by decide)

/-! Acceptance (R75). -/

/-- Settles O8: at an engine that is not ready, presenting a word and presenting nothing are one edge. -/
theorem notReadyIsNotAccepted : Obligations.NotReadyIsNotAccepted := by
  refine ⟨State.cmdReady_iff, fun s cw rest hh hr => ?_⟩
  have hidle : step { s with host := .idle :: rest } = edge .idle (s.beginEdge rest) :=
    step_eq_edge _ .idle rest (.inl rfl)
  have hnot : ¬ (s.beginEdge rest).cmdReady = true := by rw [State.beginEdge_cmdReady, hr]; decide
  rw [hidle, step_eq_edge s _ rest (.inl hh)]
  exact if_neg hnot

/-! The key word a `SEEDA` waits for (R78). -/

/-- Where the indices from `n` up to `j` are answered and `j` is not, the reads from `n` on stop at `j`. -/
theorem readKeys_length_of_unanswered {keys : KeyMem} {len j : Nat} (hj : j < len)
    (hnone : KeyMem.read keys j = none) (hsome : ∀ k, k < j → (KeyMem.read keys k).isSome = true)
    (count n : Nat) (h1 : n ≤ j) (h2 : j < n + count) : (readKeys keys len count n).length = j - n := by
  induction count generalizing n with
  | zero => omega
  | succ c ih =>
    rw [readKeys, Nat.mod_eq_of_lt (by omega)]
    rcases Nat.lt_or_eq_of_le h1 with hlt | rfl
    · obtain ⟨w, hw⟩ := Option.isSome_iff_exists.mp (hsome n hlt)
      rw [hw]
      simp only [List.length_cons, ih (n + 1) (by omega) (by omega)]
      omega
    · rw [hnone]
      simp

/-- The first reads of a `SEEDA`, no more than `L`, are of the indices in order. -/
theorem readIndices_eq_range (len count : Nat) (h : count ≤ len) :
    readIndices len count 0 = (List.range count).map zext32 := by
  rw [readIndices_eq_map, ← List.range_eq_range']
  refine List.map_congr_left fun k hk => ?_
  rw [Nat.mod_eq_of_lt (by have := List.mem_range.mp hk; omega)]

/-- A `SEEDA` whose host answers the indices below `j` and not `j` makes the reads below `j` and waits for `j`. -/
theorem State.runSeeda_waits (s : State) (len : Word) (j : Nat) (hj : j < len.toNat)
    (hnone : KeyMem.read s.keyMem j = none) (hsome : ∀ k, k < j → (KeyMem.read s.keyMem k).isSome = true) :
    ∃ run : SeedaRun, run.nextIndex = j ∧
      s.runSeeda ⟨len, []⟩ = (s.logReads ((List.range j).map zext32)).setBusy (some run) := by
  have hlen := readKeys_length_of_unanswered hj hnone hsome (max 624 len.toNat) 0 (by omega) (by omega)
  have hcases := s.runSeeda_cases ⟨len, []⟩
  simp only [SeedaRun.total, List.length_nil, Nat.sub_zero, List.nil_append] at hcases hlen
  rw [hlen, readIndices_eq_range _ _ hj.le] at hcases
  rcases hcases with ⟨hdone, -⟩ | ⟨-, heq⟩
  · omega
  · exact ⟨_, by rw [SeedaRun.nextIndex, hlen, Nat.mod_eq_of_lt hj], heq⟩

/-- Settles O20: by `State.runSeeda_waits`. -/
theorem seedaWaitsForKeyWord : Obligations.SeedaWaitsForKeyWord := by
  intro len j s hj hnone hsome
  have hlen : len ≠ 0 := by rintro rfl; simp at hj
  obtain ⟨run, hnext, heq⟩ := s.runSeeda_waits len j.toNat hj hnone hsome
  refine ⟨_, run, (exec_seeda len s hlen).trans (congrArg Host.Outcome.next heq), rfl, ?_, ?_, rfl⟩
  · simp [State.keyIdx, hnext, zext32]
  · simp [State.cmdReady]

/-! The wait (R75, R78). -/

theorem State.waitIsForKey_of_busy_none {s : State} (h : s.busy = none) : s.WaitIsForKey := by
  intro run hrun
  rw [h] at hrun
  exact absurd hrun (Option.some_ne_none run).symm

/-- A `SEEDA` that runs and does not complete has stopped at a key word the host does not answer. -/
theorem State.runSeeda_waitIsForKey (s : State) (run : SeedaRun) (hlen : run.len ≠ 0) (hrst : s.rst = false)
    (hfault : s.fault = false) : (s.runSeeda run).WaitIsForKey := by
  rcases s.runSeeda_cases run with ⟨-, heq⟩ | ⟨hlt, heq⟩ <;> rw [heq]
  · exact State.waitIsForKey_of_busy_none rfl
  · intro run' hrun'
    obtain rfl := Option.some.inj hrun'
    refine ⟨hlen, hlt, ?_, hrst, hfault⟩
    rw [List.length_append] at hlt
    rw [SeedaRun.nextIndex, List.length_append]
    exact readKeys_stop s.keyMem _ _ _ (by omega)

/-- An edge without an accepted command, on an engine whose command in progress, if any, is a `SEEDA` it may run. -/
theorem State.hold_waitIsForKey (s : State) (h : ∀ run, s.busy = some run → run.len ≠ 0 ∧ s.fault = false) :
    s.hold.WaitIsForKey := by
  rcases s.hold_cases with ⟨-, heq⟩ | ⟨hrst, run, hbusy, heq⟩ | ⟨-, hbusy, heq⟩ <;> rw [heq]
  · exact State.waitIsForKey_of_busy_none rfl
  · obtain ⟨hlen, hfault⟩ := h run hbusy
    exact s.runSeeda_waitIsForKey run hlen hrst hfault
  · exact State.waitIsForKey_of_busy_none hbusy

/-- A command accepted by a ready engine leaves none in progress, or a `SEEDA` that waits. -/
theorem exec_waitIsForKey (i : Instr) (s t : State) (hr : s.cmdReady = true) (h : exec i s = .next t) :
    t.WaitIsForKey := by
  obtain ⟨hrst, hbusy, hfault⟩ := s.cmdReady_iff.mp hr
  cases i with
  | seeds seed =>
    obtain rfl := Host.Outcome.next.inj h
    exact State.waitIsForKey_of_busy_none hbusy
  | seeda len =>
    by_cases hlen : len = 0
    · subst hlen
      obtain rfl := Host.Outcome.next.inj h
      exact State.waitIsForKey_of_busy_none hbusy
    · rw [exec_seeda len s hlen] at h
      obtain rfl := Host.Outcome.next.inj h
      exact s.runSeeda_waitIsForKey _ hlen hrst hfault
  | next =>
    rcases execNext_cases s with ⟨-, heq⟩ | ⟨-, -, heq⟩ | ⟨-, -, heq⟩ <;>
      obtain rfl := Host.Outcome.next.inj (heq.symm.trans h) <;>
      exact State.waitIsForKey_of_busy_none hbusy

/-- Settles O44: a command leaves a wait only as `exec_waitIsForKey` says, any other edge as `State.hold_waitIsForKey`
says; a fault is entered only from a ready engine, and reset abandons the command. -/
theorem waitingIsKept : Obligations.WaitingIsKept := by
  intro s t hs h
  have hmay (run : SeedaRun) (hbusy : s.busy = some run) : run.len ≠ 0 ∧ s.fault = false := by
    obtain ⟨hlen, -, -, -, hfault⟩ := hs run hbusy
    exact ⟨hlen, hfault⟩
  obtain ⟨a, rest, hp, hcases⟩ := step_cases s t h
  rcases hcases with ⟨cw, i, -, hr, -, hexec⟩ | ⟨cw, why, -, hr, -, rfl⟩ | ⟨-, rfl⟩ | ⟨j, w, -, rfl⟩ | ⟨level, -, rfl⟩
  · exact exec_waitIsForKey i (s.beginEdge rest) t hr hexec
  · obtain ⟨-, hbusy, -⟩ := s.cmdReady_iff.mp hr
    exact State.waitIsForKey_of_busy_none hbusy
  · exact (s.beginEdge rest).hold_waitIsForKey hmay
  · exact ((s.beginEdge rest).writeKey j w).hold_waitIsForKey hmay
  · rcases (s.beginEdge rest).applyRst_cases level with ⟨-, heq⟩ | ⟨-, -, heq⟩ | ⟨-, -, heq⟩ <;> rw [heq]
    · exact State.waitIsForKey_of_busy_none rfl
    · exact State.waitIsForKey_of_busy_none rfl
    · exact (s.beginEdge rest).hold_waitIsForKey hmay

/-- An edge without an accepted command changes nothing where the awaited key word is still not answered. -/
theorem State.hold_still (s : State) (run : SeedaRun) (hs : s.WaitIsForKey) (hbusy : s.busy = some run) :
    s.hold = s := by
  obtain ⟨-, hlt, hread, hrst, -⟩ := hs run hbusy
  rw [s.hold_waiting run hrst hbusy, s.runSeeda_still run hbusy hlt hread]

/-- The host's write of another key word leaves the wait as it was. -/
theorem State.writeKey_waitIsForKey (s : State) (run : SeedaRun) (j w : Word) (hs : s.WaitIsForKey)
    (hbusy : s.busy = some run) (hj : j.toNat ≠ run.nextIndex) : (s.writeKey j w).WaitIsForKey := by
  intro run' hrun'
  obtain rfl := Option.some.inj (hbusy.symm.trans hrun')
  obtain ⟨hlen, hlt, hread, hrst, hfault⟩ := hs run hbusy
  refine ⟨hlen, hlt, ?_, hrst, hfault⟩
  rw [State.writeKey_keyMem, KeyMem.read_write, if_neg hj, hread]

/-- Settles O21: a waiting engine is not ready, so the step is an edge at which the wait is held. -/
theorem waitHoldsEverything : Obligations.WaitHoldsEverything := by
  intro s t run hs hbusy hreset hkey h
  have hnot : ¬ s.cmdReady = true := by simp [State.cmdReady, hbusy]
  have hwait (rest : List HostAction) : (s.beginEdge rest).hold = s.beginEdge rest :=
    State.hold_still _ run hs hbusy
  obtain ⟨a, rest, hp, hcases⟩ := step_cases s t h
  have hfields (e : State) (he : e.busy = s.busy) : e.cmdReady = false ∧ e.keyReq = true := by
    simp [State.cmdReady, State.keyReq, he, hbusy]
  rcases hcases with ⟨cw, i, -, hr, -⟩ | ⟨cw, why, -, hr, -⟩ | ⟨-, rfl⟩ | ⟨j, w, rfl, rfl⟩ | ⟨level, rfl, rfl⟩
  · exact absurd hr hnot
  · exact absurd hr hnot
  · rw [hwait]
    exact ⟨rfl, hfields _ rfl⟩
  · rw [State.hold_still _ run ((s.beginEdge rest).writeKey_waitIsForKey run j w hs hbusy (hkey j w rest hp)) hbusy]
    exact ⟨rfl, hfields _ rfl⟩
  · rcases (s.beginEdge rest).applyRst_cases level with ⟨rfl, -⟩ | ⟨-, hrst, -⟩ | ⟨-, -, heq⟩
    · exact absurd (.inr ⟨rest, hp⟩) hreset
    · exact absurd (.inl hrst) hreset
    · rw [heq, hwait]
      exact ⟨rfl, hfields _ rfl⟩

/-! The pulse on `res_valid` (R77). -/

/-- Settles O45: a step either emits the word in `RES` or leaves `res_valid` = 0 (`resultsComeFromNextAlone`). -/
theorem pulseKeepsShowingResult : Obligations.PulseKeepsShowingResult := by
  intro s t _ h hvalid
  rcases resultsComeFromNextAlone s t h with ⟨-, -, hemitted, -⟩ | ⟨-, -, hquiet, -⟩
  · rw [hemitted, List.getLast?_concat]
  · exact absurd hvalid (ne_true_of_eq_false hquiet)

end Sys2Proof.Machine
end

section
/-! PROOFS. State initializer (40_state_initializer.md): what `SEEDS` fills, and that it forgets the state before it; the
two passes of `SEEDA` as one numbered sequence of writes, and that it depends on its key words alone. -/

namespace Sys2Proof.Machine

open Sys2Proof.Claims

/-! SEEDS (R100 to R103). -/

/-- Settles O14: the word is the command's encoding, and the fill follows the recurrence (`seedFill_filledFrom`). -/
theorem seedsFillsByRecurrence : Obligations.SeedsFillsByRecurrence := fun seed s =>
  ⟨decode_encode (.seeds seed), _, exec_seeds seed s, seedFill_filledFrom seed s.mt, rfl⟩

/-- `NEXT` right after a seeding command: the twist is due, and then the new `MT[0]` is drawn (R102). -/
theorem exec_next_of_seeded (s : State) (m : RegFile) :
    exec .next (s.seeded m) = .next ((s.seeded m).regenerated (twist m)).draw :=
  exec_next_exhausted (s.seeded m) rfl (by rw [State.seeded_idx]; decide)

/-- Settles O16: the fill forgets the register file before it, and the draw reads the twisted fill alone. -/
theorem seedsForgetsTheStateBefore : Obligations.SeedsForgetsTheStateBefore := by
  intro seed s s'
  refine ⟨_, _, _, _, exec_seeds seed s, exec_seeds seed s', seedFill_forgets seed s.mt s'.mt,
    (State.seeded_idx s _).trans (State.seeded_idx s' _).symm, ?_, exec_next_of_seeded s _, exec_next_of_seeded s' _,
    ?_, ?_, rfl⟩
  · rw [State.exhausted, State.seeded_idx]
    decide
  · exact congrArg (fun m => temper (RegFile.get (twist m) 0)) (seedFill_forgets seed s.mt s'.mt)
  · exact congrArg twist (seedFill_forgets seed s.mt s'.mt)

/-! SEEDA with every key word answered (R110 to R118). -/

/-- The key words of the max(624, `L`) iterations of pass 1, in the order of R52. -/
def passKeys (s : State) (len : Word) : List Word :=
  (List.range (max 624 len.toNat)).map fun n => keyWord s (n % len.toNat)

/-- `SEEDA` completes on the words of its key reads (R110). -/
theorem exec_seeda_answered (len : Word) (s : State) (hlen : len ≠ 0) (hk : KeysAnswered s len) :
    exec (.seeda len) s = .next
      (((s.logReads (readIndices len.toNat (max 624 len.toNat) 0)).setBusy none).seeded
        (arrayFill len.toNat (passKeys s len) s.mt)) :=
  (exec_seeda len s hlen).trans (congrArg Host.Outcome.next (s.runSeeda_complete len hlen hk))

/-- Settles O15: the scalar fill begins with the seed, the array fill ends with the forced word. -/
theorem wordZeroAfterSeeding : Obligations.WordZeroAfterSeeding := by
  refine fun s => ⟨fun seed => ?_, fun len hlen hk => ?_⟩
  · obtain ⟨hzero, -⟩ := seedFill_filledFrom seed s.mt
    exact ⟨_, exec_seeds seed s, hzero, by rw [State.seeded_mt, hzero]⟩
  · exact ⟨_, exec_seeda_answered len s hlen hk, arrayFill_get_zero _ _ _⟩

/-- Hosts that answer the indices below `L` alike give the passes the same words. -/
theorem passKeys_congr (len : Word) (s s' : State) (hlen : len ≠ 0)
    (h : ∀ j, j < len.toNat → KeyMem.read s.keyMem j = KeyMem.read s'.keyMem j) : passKeys s len = passKeys s' len := by
  have hpos : 0 < len.toNat := by bv_omega
  exact List.map_congr_left fun n _ => congrArg (·.getD 0) (h _ (Nat.mod_lt n hpos))

/-- Settles O19: the same key words, and a fill that forgets the register file before it. -/
theorem seedaDependsOnKeyAlone : Obligations.SeedaDependsOnKeyAlone := by
  intro len s s' hlen hk hsame
  have hk' : KeysAnswered s' len := fun j hj => hsame j hj ▸ hk j hj
  refine ⟨_, _, exec_seeda_answered len s hlen hk, exec_seeda_answered len s' hlen hk', ?_,
    (State.seeded_idx _ _).trans (State.seeded_idx _ _).symm, (State.seeded_init _ _).trans (State.seeded_init _ _).symm⟩
  rw [State.seeded_mt, State.seeded_mt, passKeys_congr len s s' hlen hsame]
  exact arrayFill_forgets _ _ _ _

/-! The passes as one sequence of writes (R113, R114): iteration `n`, counted over both passes. -/

/-- A write of the walk is that of R113 and R114 at the walk's position. -/
theorem walkWrite_walkWrites (w : Walk) (v : Word) (h1 : 1 ≤ w.i) (h2 : w.i < 624) :
    WalkWrites w.mt (walkWrite w v).mt w.i v := by
  refine ⟨?_, ?_, fun q hq1 hq2 hne => ?_⟩
  · rw [walkWrite_get w v _ h2 h1 h2, if_pos rfl]
  · simp [walkWrite_get w v 0 (by omega) h1 h2, show 0 ≠ w.i by omega]
  · simp [walkWrite_get w v q hq2 h1 h2, hne, show q ≠ 0 by omega]

/-- `MT[p] ^ ((MT[p-1] ^ (MT[p-1] >> 30)) * mult)` with the position `p` = 1 + n mod 623 of iteration `n`. -/
theorem mixedWord_at_position (mult : Word) (m : RegFile) (n : Nat) :
    mixedWord mult m (1 + n % 623) =
      RegFile.get m (1 + n % 623) ^^^
        ((RegFile.get m (n % 623) ^^^ (RegFile.get m (n % 623) >>> 30)) * mult) := by
  rw [mixedWord, Nat.add_sub_cancel_left]
  rfl

/-- The key index counts up modulo `L` (R113). -/
theorem keyIndex_succ (len n : Nat) (hlen : 0 < len) :
    (if n % len + 1 ≥ len then 0 else n % len + 1) = (n + 1) % len := by
  have hlt := Nat.mod_lt n hlen
  rw [← Nat.mod_add_mod n len 1]
  split_ifs with h
  · rw [show n % len + 1 = len by omega, Nat.mod_self]
  · exact (Nat.mod_eq_of_lt (Nat.lt_of_not_le h)).symm

section Passes

variable (len : Nat) (key : Nat → Word) (total : Nat) (m : RegFile)

/-- The walk before iteration `n`: of the iterations before it, the first `total` are of pass 1, with key index `n` mod
`L`, and the others of pass 2. -/
def passesWalk : (n : Nat) → Walk
  | 0 => ⟨seedFill Config.arrayBaseSeed m, 1⟩
  | n + 1 =>
    if n < total then pass1Step (key (n % len)) (n % len) (passesWalk n) else pass2Step (passesWalk n)

theorem passesWalk_succ_of_lt (n : Nat) (h : n < total) :
    passesWalk len key total m (n + 1) =
      pass1Step (key (n % len)) (n % len) (passesWalk len key total m n) := if_pos h

theorem passesWalk_succ_of_le (n : Nat) (h : total ≤ n) :
    passesWalk len key total m (n + 1) = pass2Step (passesWalk len key total m n) := if_neg (Nat.not_lt.mpr h)

/-- Each iteration, of either pass, is one write of the walk. -/
theorem passesWalk_succ_eq_walkWrite (n : Nat) :
    ∃ v, passesWalk len key total m (n + 1) = walkWrite (passesWalk len key total m n) v := by
  rcases Nat.lt_or_ge n total with h | h
  · exact ⟨_, passesWalk_succ_of_lt len key total m n h⟩
  · exact ⟨_, passesWalk_succ_of_le len key total m n h⟩

/-- The position of iteration `n`: the wrap of R117 makes the walk one of period 623 from position 1. -/
theorem passesWalk_i (n : Nat) : (passesWalk len key total m n).i = 1 + n % 623 := by
  induction n with
  | zero => rfl
  | succ n ih =>
    obtain ⟨v, hv⟩ := passesWalk_succ_eq_walkWrite len key total m n
    rw [hv, walkWrite_i, ih]
    split_ifs <;> omega

/-- Pass 1, run on the key words of iterations `n` to `n + count - 1`, takes the walk over them. -/
theorem pass1_passesWalk (hlen : 0 < len) (count n : Nat) (h : n + count ≤ total) :
    pass1 len ((List.range' n count).map fun k => key (k % len)) (n % len) (passesWalk len key total m n) =
      passesWalk len key total m (n + count) := by
  induction count generalizing n with
  | zero => rfl
  | succ c ih =>
    rw [List.range'_succ, List.map_cons, pass1, keyIndex_succ len n hlen,
      ← passesWalk_succ_of_lt len key total m n (by omega), ih (n + 1) (by omega), Nat.add_right_comm, Nat.add_assoc]

/-- Pass 2 takes the walk over the iterations after those of pass 1. -/
theorem pass2_passesWalk (count n : Nat) (h : total ≤ n) :
    pass2 count (passesWalk len key total m n) = passesWalk len key total m (n + count) := by
  induction count generalizing n with
  | zero => rfl
  | succ c ih =>
    rw [pass2, ← passesWalk_succ_of_le len key total m n h, ih (n + 1) (by omega), Nat.add_right_comm, Nat.add_assoc]

/-- The array fill is the walk over both passes, and then the forced word (R112 to R115). -/
theorem arrayFill_eq_passesWalk (hlen : 0 < len) :
    arrayFill len ((List.range total).map fun n => key (n % len)) m =
      RegFile.set (passesWalk len key total m (total + 623)).mt 0 Config.forcedWord0 := by
  have hpass1 := pass1_passesWalk len key total m hlen total 0 (by omega)
  rw [Nat.zero_mod, Nat.zero_add, ← List.range_eq_range'] at hpass1
  rw [← pass2_passesWalk len key total m 623 total le_rfl, ← hpass1]
  unfold arrayFill
  rfl

/-- Iteration `n` of pass 1 (R113). -/
theorem passesWalk_pass1_writes (n : Nat) (h : n < total) :
    WalkWrites (passesWalk len key total m n).mt (passesWalk len key total m (n + 1)).mt (1 + n % 623)
      (mixedWord Config.keyMult1 (passesWalk len key total m n).mt (1 + n % 623) + key (n % len) + zext32 (n % len)) := by
  rw [passesWalk_succ_of_lt len key total m n h, pass1Step, ← passesWalk_i len key total m n]
  exact walkWrite_walkWrites _ _ (by rw [passesWalk_i]; omega) (by rw [passesWalk_i]; omega)

/-- Iteration `n` of pass 2 (R114), counted over both passes. -/
theorem passesWalk_pass2_writes (n : Nat) (h : total ≤ n) :
    WalkWrites (passesWalk len key total m n).mt (passesWalk len key total m (n + 1)).mt (1 + n % 623)
      (mixedWord Config.keyMult2 (passesWalk len key total m n).mt (1 + n % 623) - zext32 (1 + n % 623)) := by
  rw [passesWalk_succ_of_le len key total m n h, pass2Step, ← passesWalk_i len key total m n]
  exact walkWrite_walkWrites _ _ (by rw [passesWalk_i]; omega) (by rw [passesWalk_i]; omega)

end Passes

/-- Settles O17: the register files are those of `passesWalk`, the walk over the iterations of both passes. -/
theorem seedaMixesTheKey : Obligations.SeedaMixesTheKey := by
  intro len s hlen hk
  have hpos : 0 < len.toNat := by bv_omega
  have hfill := arrayFill_eq_passesWalk len.toNat (keyWord s) (max 624 len.toNat) s.mt hpos
  refine ⟨_, fun n => (passesWalk len.toNat (keyWord s) (max 624 len.toNat) s.mt n).mt,
    exec_seeda_answered len s hlen hk, seedFill_filledFrom _ s.mt, fun n hn => ?_, fun n hn _ => ?_,
    arrayFill_get_zero _ _ _, fun q hq1 hq2 => ?_, rfl⟩
  · have hwrites := passesWalk_pass1_writes len.toNat (keyWord s) _ s.mt n hn
    rwa [mixedWord_at_position] at hwrites
  · have hwrites := passesWalk_pass2_writes len.toNat (keyWord s) _ s.mt n hn
    rwa [mixedWord_at_position] at hwrites
  · rw [State.seeded_mt, passKeys, hfill, RegFile.get_set_other _ _ _ _ hq2 (by omega)]

end Sys2Proof.Machine
end

section
/-! PROOFS. Generator core (41_generator_core.md): a draw of a pending word; the three-range form of the twist; the
generator state after any number of draws from a fresh seeding, in closed form, and with it the words drawn. -/

namespace Sys2Proof.Machine

open Sys2Proof.Claims

/-! A pending word (R133, R135, R136). -/

/-- Settles O23: `NEXT` on a pending position is the draw alone. -/
theorem nextDrawsPendingWord : Obligations.NextDrawsPendingWord := fun s hi hx =>
  ⟨s.draw, exec_next_pending s hi hx, tempersTo_temper _, position_succ s.idx hx, rfl⟩

/-! The three-range form (R132). -/

/-- A position of a range is that position of the twist, where its operands stand at the twist's modulo indices. -/
theorem rangeStep_eq_twistStep (next far : Nat → Nat) (k : Nat) (m : RegFile) (hnext : next k = (k + 1) % 624)
    (hfar : far k = (k + 397) % 624) : rangeStep next far k m = twistStep k m := by
  rw [rangeStep, twistStep, hnext, hfar]

/-- Settles O25: in each range the operands are the modulo form's, and the three ranges in a row are one loop. -/
theorem threeRangeFormEqualsTwist : Obligations.ThreeRangeFormEqualsTwist := by
  intro m
  have hlow (m : RegFile) : forUp (rangeStep (· + 1) (· + 397)) 227 0 m = forUp twistStep 227 0 m :=
    forUp_congr _ _ _ _ _ fun k m _ _ => rangeStep_eq_twistStep _ _ k m (by omega) (by omega)
  have hmid (m : RegFile) : forUp (rangeStep (· + 1) (· - 227)) 396 227 m = forUp twistStep 396 227 m :=
    forUp_congr _ _ _ _ _ fun k m _ _ => rangeStep_eq_twistStep _ _ k m (by omega) (by omega)
  have hlast (m : RegFile) : rangeStep (fun _ => 0) (fun _ => 396) 623 m = twistStep 623 m :=
    rangeStep_eq_twistStep _ _ 623 m rfl rfl
  unfold twistThreeRanges twist
  simp only [hlow, hmid, hlast]
  rw [forUp_last twistStep 623, forUp_add twistStep 227 396]

/-! Draws in a row (R134, R139, R140). -/

/-- The position after `n` draws from 624. -/
def drawnPosition (n : Nat) : Nat := if n = 0 then 624 else (n - 1) % 624 + 1

/-- The generator state after `n` draws from the register file `m` at position 624: ceil(`n` / 624) twists have run. -/
def drawnGen (n : Nat) (m : RegFile) : RegFile × Position :=
  (twist^[(n + 623) / 624] m, BitVec.ofNat 10 (drawnPosition n))

theorem drawnGen_position (n : Nat) (m : RegFile) : (drawnGen n m).2.toNat = drawnPosition n := by
  simp only [drawnGen, drawnPosition, BitVec.toNat_ofNat]
  split_ifs <;> omega

/-- What draw `n` (from 0) draws from: word `n` mod 624 of the register file twisted `n` / 624 + 1 times. The twist is
due exactly when `n` is a multiple of 624. -/
theorem genTwistIfDue_drawnGen (n : Nat) (m : RegFile) :
    genTwistIfDue (drawnGen n m) = (twist^[n / 624 + 1] m, BitVec.ofNat 10 (n % 624)) := by
  rw [genTwistIfDue, drawnGen_position]
  by_cases hdue : n % 624 = 0
  · have hpos : 624 ≤ drawnPosition n := by unfold drawnPosition; split_ifs <;> omega
    have htwists : (n + 623) / 624 = n / 624 := by omega
    rw [if_pos hpos, drawnGen, htwists, Function.iterate_succ_apply', hdue]
    rfl
  · have hpos : drawnPosition n = n % 624 := by unfold drawnPosition; split_ifs <;> omega
    have htwists : (n + 623) / 624 = n / 624 + 1 := by omega
    rw [if_neg (by omega), drawnGen, htwists, hpos]

/-- The word of draw `n` (R134). -/
theorem genWord_drawnGen (n : Nat) (m : RegFile) :
    genWord (drawnGen n m) = temper (RegFile.get (twist^[n / 624 + 1] m) (n % 624)) := by
  have hfits : n % 624 < 2 ^ 10 := by omega
  simp only [genWord, genTwistIfDue_drawnGen, BitVec.toNat_ofNat, Nat.mod_eq_of_lt hfits]

/-- One draw more (R133, R139). -/
theorem genNext_drawnGen (n : Nat) (m : RegFile) : genNext (drawnGen n m) = drawnGen (n + 1) m := by
  have htwists : (n + 1 + 623) / 624 = n / 624 + 1 := by omega
  have hpos : drawnPosition (n + 1) = n % 624 + 1 := rfl
  rw [genNext, genTwistIfDue_drawnGen, drawnGen, htwists, hpos, BitVec.ofNat_add]
  rfl

theorem genNext_iterate (n : Nat) (m : RegFile) : genNext^[n] (m, 624) = drawnGen n m := by
  induction n with
  | zero => rfl
  | succ n ih => rw [Function.iterate_succ_apply', ih, genNext_drawnGen]

/-- Draw `k` emits the word of the generator state that the `k` draws before it left. -/
theorem genWords_eq_map (n : Nat) (g : RegFile × Position) :
    genWords n g = (List.range n).map fun k => genWord (genNext^[k] g) := by
  induction n generalizing g with
  | zero => rfl
  | succ n ih => simp [genWords, ih, List.range_succ_eq_map, Function.comp_def]

/-- A draw neither reads a key nor touches key memory (R50, R52). -/
theorem step_draw_keys (s t : State) (rest : List HostAction) (hr : s.cmdReady = true) (hi : s.init = true)
    (hh : s.host = .present (encode .next) :: rest) (hstep : step s = .next t) :
    t.keyReads = s.keyReads ∧ t.keyMem = s.keyMem := by
  rw [step_presented s .next rest hr hh, exec_next_seeded (s.beginEdge rest) hi] at hstep
  obtain rfl := Host.Outcome.next.inj hstep
  exact ⟨rfl, rfl⟩

/-- `n` draws use up their `n` actions, leave the engine ready and seeded, and leave the key reads and key memory. -/
theorem run_draws_frame (n : Nat) (s t : State) (rest : List HostAction) (hr : s.cmdReady = true) (hi : s.init = true)
    (hh : s.host = List.replicate n (.present (encode .next)) ++ rest) (hrun : core.run n s = .next t) :
    t.cmdReady = true ∧ t.init = true ∧ t.host = rest ∧ t.keyReads = s.keyReads ∧ t.keyMem = s.keyMem := by
  induction n generalizing s with
  | zero =>
    obtain rfl : s = t := Host.Outcome.next.inj hrun
    exact ⟨hr, hi, hh, rfl, rfl⟩
  | succ n ih =>
    obtain ⟨u, hstep, hr', hi', hhost, -⟩ := step_draw s _ hr hi hh
    obtain ⟨hreads, hmem⟩ := step_draw_keys s u _ hr hi hh hstep
    rw [run_first n s u hstep] at hrun
    rw [← hreads, ← hmem]
    exact ih u hr' hi' hhost hrun

/-- Settles O26: the run is `run_draws`, its generator states those of `drawnGen`. -/
theorem drawsFollowTheTwists : Obligations.DrawsFollowTheTwists := by
  intro n s rest hr hi hidx hh
  have hfresh : s.gen = (s.mt, 624) := by rw [State.gen, hidx]
  obtain ⟨t, hrun, hgen, hem⟩ := run_draws n s rest hr hi hh
  obtain ⟨hready, hinit, hhost, hreads, hmem⟩ := run_draws_frame n s t rest hr hi hh hrun
  rw [hfresh, genNext_iterate] at hgen
  have hpos : t.idx.toNat = drawnPosition n := by rw [← drawnGen_position n s.mt, ← hgen]; rfl
  rw [hfresh, genWords_eq_map] at hem
  simp only [genNext_iterate, genWord_drawnGen] at hem
  exact ⟨t, hrun, hem, congrArg Prod.fst hgen, hpos, hready, hinit, hhost, hreads, hmem⟩

end Sys2Proof.Machine
end

section
/-! PROOFS. Exceptions (60_exceptions.md): the fault conditions and fault entry, which accepted words fault, and the
faulted engine, which holds its state until reset. -/

namespace Sys2Proof.Machine

open Sys2Proof.Claims

/-! Fault entry (R171 to R174). -/

/-- Settles O9: a reserved word is refused by the decoder, and the two commands that may fault check first. -/
theorem faultEntryIsPrecise : Obligations.FaultEntryIsPrecise := by
  intro s
  refine ⟨fun cw hres => ?_, exec_next_unseeded s, exec_seeda_zero s⟩
  obtain ⟨why, hd⟩ := decode_reserved cw hres
  exact accept_illegal cw why s hd

/-! The fault conditions decide `FAULT` (R176, R177). -/

/-- From `FAULT` = 0 a command sets `FAULT` exactly where its fault condition holds. -/
theorem exec_fault_iff (i : Instr) (s t : State) (hf : s.fault = false) (h : exec i s = .next t) :
    t.fault = true ↔ (i = .next ∧ s.init = false) ∨ i = .seeda 0 := by
  cases i with
  | seeds seed =>
    rw [exec_seeds] at h
    obtain rfl := Host.Outcome.next.inj h
    simp [hf]
  | seeda len =>
    by_cases hlen : len = 0
    · subst hlen
      rw [exec_seeda_zero] at h
      obtain rfl := Host.Outcome.next.inj h
      simp
    · rw [exec_seeda len s hlen] at h
      obtain rfl := Host.Outcome.next.inj h
      obtain ⟨hkept, -⟩ := s.runSeeda_frame ⟨len, []⟩
      rw [hkept, hf]
      simpa using hlen
  | next =>
    rcases execNext_cases s with ⟨hinit, heq⟩ | ⟨hinit, -, heq⟩ | ⟨hinit, -, heq⟩ <;>
      obtain rfl := Host.Outcome.next.inj (heq.symm.trans h)
    · simp [hinit]
    · simp [State.draw, hinit, hf]
    · simp [State.draw, hinit, hf]

/-- Settles O10: a reserved word faults (R171), and a command as `exec_fault_iff` says. -/
theorem faultConditionsDecideFault : Obligations.FaultConditionsDecideFault := by
  intro s t cw hf h
  cases hd : decode cw with
  | command i =>
    rw [accept_command cw i s hd] at h
    simpa using exec_fault_iff i s t hf h
  | illegal why =>
    rw [accept_illegal cw why s hd] at h
    obtain rfl := Host.Outcome.next.inj h
    simp

/-! The faulted engine (R175). -/

/-- A step of a faulted engine with no command in progress, out of reset, changes the host's side alone and ends the
pulse on `res_valid`. -/
theorem step_of_faulted (s t : State) (hfault : s.fault = true) (hbusy : s.busy = none) (hreset : ¬ ResetEdge s)
    (h : step s = .next t) : ∃ host keyMem, t = { s with host := host, resValid := false, keyMem := keyMem } := by
  have hrst : s.rst = false := Bool.eq_false_of_not_eq_true fun hr => hreset (.inl hr)
  have hnot : ¬ s.cmdReady = true := by simp [State.cmdReady, hfault]
  obtain ⟨a, rest, hp, hcases⟩ := step_cases s t h
  rcases hcases with ⟨cw, i, -, hr, -⟩ | ⟨cw, why, -, hr, -⟩ | ⟨-, rfl⟩ | ⟨j, w, -, rfl⟩ | ⟨level, rfl, rfl⟩
  · exact absurd hr hnot
  · exact absurd hr hnot
  · exact ⟨_, _, State.hold_idle _ hrst hbusy⟩
  · exact ⟨_, _, State.hold_idle _ hrst hbusy⟩
  · rcases (s.beginEdge rest).applyRst_cases level with ⟨rfl, -⟩ | ⟨-, hr, -⟩ | ⟨-, -, heq⟩
    · exact absurd (.inr ⟨rest, hp⟩) hreset
    · exact absurd (.inl hr) hreset
    · exact ⟨_, _, heq.trans (State.hold_idle _ hrst hbusy)⟩

/-- Settles O11: a faulted engine has no command waiting, so its steps are those of `step_of_faulted`. -/
theorem faultIsSticky : Obligations.FaultIsSticky := by
  intro s t hs hfault hreset h
  have hbusy : s.busy = none := by
    refine Option.eq_none_iff_forall_not_mem.mpr fun run hrun => ?_
    obtain ⟨-, -, -, -, hclear⟩ := hs run hrun
    exact Bool.noConfusion (hclear.symm.trans hfault)
  obtain ⟨host, keyMem, rfl⟩ := step_of_faulted s t hfault hbusy hreset h
  exact ⟨hfault, rfl, rfl, rfl, rfl, rfl, hbusy, rfl, by simp [State.cmdReady, hfault], rfl, rfl⟩

end Sys2Proof.Machine
end

section
/-! PROOFS. Reset and hazards (70_reset_and_hazards.md): what only reset clears; the engine held at its reset values
while `rst` = 1, and its release; the host sequence create_generator. -/

namespace Sys2Proof.Machine

open Sys2Proof.Claims

/-! Reset is the only way to clear `FAULT` and `INIT` (R26, R27, R200). -/

/-- Settles O12: every effect of a step but reset keeps `FAULT` and `INIT` or sets them. -/
theorem onlyResetClearsFaultAndInit : Obligations.OnlyResetClearsFaultAndInit := by
  intro s t h hreset
  have hkept (hf : t.fault = s.fault) (hi : t.init = s.init) :
      (s.fault = true → t.fault = true) ∧ (s.init = true → t.init = true) :=
    ⟨hf.trans, hi.trans⟩
  cases step_effect s t h with
  | kept _ arch => exact hkept (congrArg Arch.fault arch) (congrArg Arch.init arch)
  | drew _ _ _ arch => exact hkept (congrArg Arch.fault arch) (congrArg Arch.init arch)
  | twisted _ _ _ arch => exact hkept (congrArg Arch.fault arch) (congrArg Arch.init arch)
  | faulted _ _ _ arch => exact ⟨fun _ => congrArg Arch.fault arch, (congrArg Arch.init arch).trans⟩
  | seeded _ _ _ _ _ arch => exact ⟨(congrArg Arch.fault arch).trans, fun _ => congrArg Arch.init arch⟩
  | reset edge _ _ => exact absurd edge hreset

/-! The engine in reset (R200). -/

theorem State.enterReset_atReset (s : State) : s.enterReset.AtReset := ⟨rfl, rfl, rfl, rfl, rfl, rfl, rfl, rfl⟩

theorem State.resetHolds_of_rst_false {s : State} (h : s.rst = false) : s.ResetHolds :=
  fun hr => absurd hr (ne_true_of_eq_false h)

/-- An edge without an accepted command gives the reset values where `rst` = 1, and leaves `rst` alone. -/
theorem State.hold_resetHolds (s : State) : s.hold.ResetHolds := by
  rcases s.hold_cases with ⟨-, heq⟩ | ⟨hrst, run, -, heq⟩ | ⟨hrst, -, heq⟩ <;> rw [heq]
  · exact fun _ => s.enterReset_atReset
  · obtain ⟨-, -, -, hkept, -⟩ := s.runSeeda_frame run
    exact State.resetHolds_of_rst_false (hkept.trans hrst)
  · exact State.resetHolds_of_rst_false hrst

/-- No command drives `rst`. -/
theorem exec_rst (i : Instr) (s t : State) (h : exec i s = .next t) : t.rst = s.rst := by
  cases i with
  | seeds seed => obtain rfl := Host.Outcome.next.inj h; rfl
  | seeda len =>
    by_cases hlen : len = 0
    · subst hlen; obtain rfl := Host.Outcome.next.inj h; rfl
    · rw [exec_seeda len s hlen] at h
      obtain rfl := Host.Outcome.next.inj h
      obtain ⟨-, -, -, hkept, -⟩ := s.runSeeda_frame ⟨len, []⟩
      exact hkept
  | next =>
    rcases execNext_cases s with ⟨-, heq⟩ | ⟨-, -, heq⟩ | ⟨-, -, heq⟩ <;>
      obtain rfl := Host.Outcome.next.inj (heq.symm.trans h) <;> rfl

/-- Settles O41: a word is accepted only with `rst` = 0 and leaves it 0; any other edge with `rst` = 1 gives the reset
values. -/
theorem resetKeepsHolding : Obligations.ResetKeepsHolding := by
  intro s t _ h
  obtain ⟨a, rest, -, hcases⟩ := step_cases s t h
  rcases hcases with ⟨cw, i, -, hr, -, hexec⟩ | ⟨cw, why, -, hr, -, rfl⟩ | ⟨-, rfl⟩ | ⟨j, w, -, rfl⟩ | ⟨level, -, rfl⟩
  · obtain ⟨hrst, -⟩ := s.cmdReady_iff.mp hr
    exact State.resetHolds_of_rst_false ((exec_rst i _ t hexec).trans hrst)
  · obtain ⟨hrst, -⟩ := s.cmdReady_iff.mp hr
    exact State.resetHolds_of_rst_false hrst
  · exact State.hold_resetHolds _
  · exact State.hold_resetHolds _
  · rcases (s.beginEdge rest).applyRst_cases level with ⟨-, heq⟩ | ⟨-, -, heq⟩ | ⟨-, -, heq⟩ <;> rw [heq]
    · exact fun _ => State.enterReset_atReset _
    · exact State.resetHolds_of_rst_false rfl
    · exact State.hold_resetHolds _

/-! Reset and its release (R200, R201). -/

/-- Driving `rst` to 1 resets the engine, whatever its state. -/
theorem step_assertRst (s : State) (rest : List HostAction) (hh : s.host = .setRst true :: rest) :
    step s = .next ((s.beginEdge rest).driveRst true).enterReset := by
  rw [step_eq_edge s _ rest (.inl hh)]
  exact congrArg Host.Outcome.next (by simpa using (s.beginEdge rest).applyRst_cases true)

/-- Driving `rst` back to 0 releases the engine at its reset values. -/
theorem step_releaseRst (s : State) (rest : List HostAction) (hrst : s.rst = true)
    (hh : s.host = .setRst false :: rest) : step s = .next ((s.beginEdge rest).enterReset.driveRst false) := by
  rw [step_eq_edge s _ rest (.inl hh)]
  exact congrArg Host.Outcome.next (by simpa [hrst] using (s.beginEdge rest).applyRst_cases false)

/-- Settles O31: `step_assertRst`, then `step_releaseRst`. -/
theorem resetFromAnyState : Obligations.ResetFromAnyState := fun s rest hh =>
  let t := ((s.beginEdge (.setRst false :: rest)).driveRst true).enterReset
  ⟨t, _, step_assertRst s _ hh, State.enterReset_atReset _, rfl, rfl, rfl, step_releaseRst t rest rfl rfl,
    (t.beginEdge rest).enterReset_atReset, rfl, rfl, rfl, rfl, rfl, rfl⟩

/-! The host sequence create_generator (R206). -/

/-- A ready engine holds its state while the host writes a key word (R59). -/
theorem step_setKey_ready (s : State) (j w : Word) (rest : List HostAction) (hr : s.cmdReady = true)
    (hh : s.host = .setKey j w :: rest) : step s = .next ((s.beginEdge rest).writeKey j w) := by
  obtain ⟨hrst, hbusy, -⟩ := s.cmdReady_iff.mp hr
  rw [step_eq_edge s _ rest (.inl hh)]
  exact congrArg Host.Outcome.next (State.hold_idle _ hrst hbusy)

/-- Key memory `keys'` holds `words` from index `j` up, and answers as `keys` below `j`. -/
structure KeysWritten (keys keys' : KeyMem) (j : Nat) (words : List Nat) : Prop where
  below : ∀ k, k < j → KeyMem.read keys' k = KeyMem.read keys k
  written : ∀ k, k < words.length → KeyMem.read keys' (j + k) = words[k]?.map zext32

/-- Writing the first word before the others (which go to higher indices). -/
theorem KeysWritten.cons {keys keys' : KeyMem} {j w : Nat} {words : List Nat}
    (h : KeysWritten (KeyMem.write keys j (zext32 w)) keys' (j + 1) words) : KeysWritten keys keys' j (w :: words) where
  below k hk := by rw [h.below k (by omega), KeyMem.read_write, if_neg (by omega)]
  written k hk := by
    cases k with
    | zero => rw [Nat.add_zero, h.below j (by omega), KeyMem.read_write, if_pos rfl]; rfl
    | succ k =>
      rw [show j + (k + 1) = j + 1 + k by omega, h.written k (Nat.lt_of_succ_lt_succ hk), List.getElem?_cons_succ]

/-- The host writes key words, one step each, at a ready engine: it stays ready and emits nothing. -/
theorem run_writeKeys (words : List Nat) (j : Nat) (s : State) (rest : List HostAction) (hr : s.cmdReady = true)
    (hfit : j + words.length ≤ 2 ^ 32) (hh : s.host = writeKeys j words ++ rest) :
    ∃ t : State, core.run words.length s = .next t ∧ t.cmdReady = true ∧ t.host = rest ∧ t.emitted = s.emitted ∧
      KeysWritten s.keyMem t.keyMem j words := by
  induction words generalizing j s with
  | nil => exact ⟨s, rfl, hr, hh, rfl, fun _ _ => rfl, fun k hk => absurd hk (Nat.not_lt_zero k)⟩
  | cons w words ih =>
    rw [List.length_cons] at hfit
    have hstep := step_setKey_ready s _ _ _ hr hh
    obtain ⟨t, hrun, hready, hhost, hem, hkeys⟩ :=
      ih (j + 1) ((s.beginEdge _).writeKey (zext32 j) (zext32 w)) hr (by omega) rfl
    rw [State.writeKey_keyMem, zext32_toNat (by omega)] at hkeys
    exact ⟨t, (run_first _ s _ hstep).trans hrun, hready, hhost, hem, hkeys.cons⟩

/-- The words that the reads of a `SEEDA` with the key `words` return, in the order of R52. -/
def cyclicKey (words : List Nat) : List Word :=
  (List.range (max 624 words.length)).map fun n => zext32 (words[n % words.length]?.getD 0)

/-- `SEEDA {w0, ..., w(L-1)}` at a ready engine (R81): in `L + 1` steps it is seeded from those words. -/
theorem run_seedaWithKey (words : List Nat) (s : State) (m : RegFile) (rest : List HostAction)
    (hr : s.cmdReady = true) (hpos : 0 < words.length) (hfit : words.length < 2 ^ 32)
    (hh : s.host = seedaWithKey words ++ rest) :
    ∃ t : State, core.run (words.length + 1) s = .next t ∧
      SeededWith (arrayFill words.length (cyclicKey words) m) (s.beginEdge rest) t := by
  have hlen : (zext32 words.length).toNat = words.length := zext32_toNat hfit
  have hne : zext32 words.length ≠ 0 := by bv_omega
  rw [seedaWithKey, List.append_assoc] at hh
  obtain ⟨u, hrun, hready, hhost, hem, -, hkeys⟩ := run_writeKeys words 0 s _ hr (by omega) hh
  simp only [Nat.zero_add] at hkeys
  have hanswered : KeysAnswered (u.beginEdge rest) (zext32 words.length) := by
    intro j hj
    rw [hlen] at hj
    rw [State.beginEdge_keyMem, hkeys j hj]
    simpa using hj
  have hword (n : Nat) : keyWord (u.beginEdge rest) (n % words.length) = zext32 (words[n % words.length]?.getD 0) := by
    rw [keyWord, State.beginEdge_keyMem, hkeys _ (Nat.mod_lt n hpos)]
    exact Option.getD_map zext32 0 _
  obtain ⟨t, hexec, hgen, hinit, hready', hhost', hem'⟩ :=
    seededWith_seeda (zext32 words.length) (u.beginEdge rest) m hready hne hanswered
  simp only [hlen, hword] at hgen
  have hstep : step u = .next t := (step_presented u _ rest hready hhost).trans hexec
  exact ⟨t, (run_last _ s u hrun).trans hstep, hgen, hinit, hready', hhost', hem'.trans hem⟩

/-- The four key words of create_generator, taken cyclically over 624 reads (R113). -/
theorem cyclicKey_four (e0 e1 e2 e3 : Nat) :
    cyclicKey [e0, e1, e2, e3] = (List.range 624).map fun n =>
      BitVec.ofNat 32 (if n % 4 = 0 then e0 else if n % 4 = 1 then e1 else if n % 4 = 2 then e2 else e3) := by
  refine List.map_congr_left fun n _ => congrArg (BitVec.ofNat 32) ?_
  have hlt : n % 4 < 4 := Nat.mod_lt n (by decide)
  simp only [List.length_cons, List.length_nil]
  generalize n % 4 = r at hlt
  interval_cases r <;> rfl

/-- Settles O32: reset and its release give a ready engine, and `run_seedaWithKey` seeds it. -/
theorem createGeneratorSeeds : Obligations.CreateGeneratorSeeds := by
  intro s e0 e1 e2 e3 rest _ hh
  obtain ⟨t, u, hreset, -, -, -, -, hrelease, -, -, hready, hhost, -, hem, -⟩ := resetFromAnyState s _ hh
  obtain ⟨v, hrun, hseeded⟩ := run_seedaWithKey [e0, e1, e2, e3] u (Vector.replicate 624 0) rest hready
    (Nat.succ_pos 3) (show 4 < 2 ^ 32 by decide) hhost
  obtain ⟨-, -, hfault⟩ := v.cmdReady_iff.mp hseeded.ready
  have hmt : v.mt = arrayFill 4 (cyclicKey [e0, e1, e2, e3]) (Vector.replicate 624 0) := congrArg Prod.fst hseeded.gen
  have hidx : v.idx = 624 := congrArg Prod.snd hseeded.gen
  have hseven : core.run 7 s = .next v := (run_first 6 s t hreset).trans ((run_first 5 t u hrelease).trans hrun)
  refine ⟨v, hseven, hseeded.host, hseeded.ready, hseeded.init, hfault, ?_, ?_, ?_, hseeded.emitted.trans hem⟩
  · exact decide_eq_true (by rw [hidx]; decide)
  · rw [hmt]; exact arrayFill_get_zero _ _ _
  · rw [← cyclicKey_four]; exact hmt

end Sys2Proof.Machine
end
